-- ==== Sys2Proof/Word.lean ====
section
/-! DEFINITION. The two value types of the block (00_scope.md R7): `u32` and `u8`. Every value is unsigned. -/

namespace Sys2Proof

/-- `u32`: a register, a table entry, the CRC register, a bus word or a host address (R7, R14, R31). -/
abbrev Word := BitVec 32

/-- `u8`: one byte of the message buffer, also a table index 0..255 (R7, R25). -/
abbrev Byte := BitVec 8

end Sys2Proof
end

