-- ==== Sys2Proof/Syntax.lean ====
section
/-! DEFINITION. The block's commands, the fields of a command word, the host's bus transactions and the assembler's
statements (30_encoding.md). -/

namespace Sys2Proof

/-- The 13 commands (R54), one constructor per row of opcode_table.json. A command has no operand fields: its operands
are the host registers `OPA` and `OPB` (R53). -/
inductive Instr where
  /-- `REFLECT` (R61). -/
  | reflect
  /-- `BWMSB` (R73). -/
  | bwmsb
  /-- `TBMSB` (R88). -/
  | tbmsb
  /-- `BWLSB` (R76). -/
  | bwlsb
  /-- `TBLSB` (R93). -/
  | tblsb
  /-- `TGENMSB` (R96). -/
  | tgenmsb
  /-- `TGENLSB` (R97). -/
  | tgenlsb
  /-- `TRDMSB` (R98). -/
  | trdmsb
  /-- `TRDLSB` (R99). -/
  | trdlsb
  /-- `POLYMSB` (R68). -/
  | polymsb
  /-- `POLYLSB` (R69). -/
  | polylsb
  /-- `TBMSB.U` (R89). -/
  | tbmsbU
  /-- `TBLSB.U` (R94). -/
  | tblsbU
deriving DecidableEq, Repr

/-- The fields of a command word (R49). -/
structure CmdFields where
  /-- `OP`, bits [3:0]. -/
  op : BitVec 4
  /-- `UT`, bit [4]: use the caller table. -/
  ut : Bool
  /-- Bits [31:5], which must be 0 (R52). -/
  reserved : BitVec 27
deriving DecidableEq, Repr

/-- Why a word is no command (R55). The block reports all three as IllegalCommand. -/
inductive DecodeError where
  /-- A bit of [31:5] is set (R52). -/
  | reservedBits
  /-- `UT` = 1 with an `OP` other than 0x3 and 0x5 (R51). -/
  | utNotAllowed
  /-- `OP` is 0x0 or 0xC to 0xF (R50). -/
  | reservedOp
deriving DecidableEq, Repr

/-- What the decoder answers for a word (R54). -/
inductive Decoded where
  | instr (i : Instr)
  | illegal (e : DecodeError)
deriving DecidableEq, Repr

/-- The five host registers (10_state.md R14). -/
inductive HostReg where
  | cmd
  | opa
  | opb
  | result
  | status
deriving DecidableEq, Repr

/-- The width of a host access. The host data bus has 32 bits (R5), so no wider access exists (log entry 13). -/
inductive Width where
  | byte
  | half
  | word
deriving DecidableEq, Repr

/-- One host bus transaction (20_memory.md R31, R42). A byte write carries its byte in `data[7:0]` (R34). -/
inductive HostAccess where
  | read (addr : Word) (width : Width)
  | write (addr : Word) (width : Width) (data : Word)
deriving DecidableEq, Repr

/-- What the outside can do to the block between two commands: a host access, or the platform's reset (R13, R120). -/
inductive HostEvent where
  | access (a : HostAccess)
  | reset
deriving DecidableEq, Repr

/-- The statements of host programs (R57), each one bus transaction. -/
inductive Stmt where
  | wr (r : HostReg) (imm : Word)
  | rd (r : HostReg)
  | wrb (a : Nat) (imm : Byte)
  | rdb (a : Nat)
  | wrt (i : Nat) (imm : Word)
  | rdt (i : Nat)
deriving DecidableEq, Repr

end Sys2Proof
end

