-- ==== Sys2Proof/WellFormed.lean ====
section
/-! DEFINITION. Which terms of Syntax stand for something the block has: command words (30_encoding.md R50-R52) and
assembler statements (R57). -/

namespace Sys2Proof

/-- Bits [31:5] of a command word must be 0 (R52). -/
def CmdFields.reservedClear (f : CmdFields) : Bool := f.reserved == 0

/-- `OP` 0x0 and 0xC to 0xF are reserved (R50). -/
def CmdFields.opAssigned (f : CmdFields) : Bool := decide (1 ≤ f.op.toNat ∧ f.op.toNat ≤ 0xB)

/-- `UT` is legal as 1 only with `OP` = 0x3 or 0x5 (R49, R51). -/
def CmdFields.utAllowed (f : CmdFields) : Bool := !f.ut || f.op == 0x3 || f.op == 0x5

/-- The fields of a legal command word (R52, R50, R51). -/
def CmdFields.wf (f : CmdFields) : Bool := f.reservedClear && f.opAssigned && f.utAllowed

/-- A command has no operand fields (R49, R53), so there is no ill-formed `Instr`: the checks on what a command word may
hold are those of `CmdFields.wf`. -/
def Instr.wf (_ : Instr) : Bool := true

/-- `WR` takes only the registers a host can write: `CMD`, `OPA`, `OPB` (R57). -/
def HostReg.writable : HostReg → Bool
  | .cmd => true
  | .opa => true
  | .opb => true
  | .result => false
  | .status => false

/-- A statement's register, message offset or table index exists (R57, 20_memory.md R32), on a block with `msgBytes`
bytes of message buffer. -/
def Stmt.wf (msgBytes : Nat) : Stmt → Bool
  | .wr r _ => r.writable
  | .rd _ => true
  | .wrb a _ => decide (a < msgBytes)
  | .rdb a => decide (a < msgBytes)
  | .wrt i _ => decide (i < 256)
  | .rdt i => decide (i < 256)

end Sys2Proof
end

