-- ==== Sys2Proof/Decode.lean ====
section
/-! DEFINITION. Command words: decoder (30_encoding.md R54), then encoder (R50, R51), then the assembler's statements
and pseudo-instructions (R57, R58). -/

namespace Sys2Proof

/-- The fields of a word (R49). -/
def fieldsOf (c : Word) : CmdFields :=
  { op := c.extractLsb' 0 4, ut := c.getLsbD 4, reserved := c.extractLsb' 5 27 }

/-- The `OP` values with `UT` = 0 (R50, R54). -/
def decodeOp (op : Nat) : Decoded :=
  match op with
  | 0x1 => .instr .reflect
  | 0x2 => .instr .bwmsb
  | 0x3 => .instr .tbmsb
  | 0x4 => .instr .bwlsb
  | 0x5 => .instr .tblsb
  | 0x6 => .instr .tgenmsb
  | 0x7 => .instr .tgenlsb
  | 0x8 => .instr .trdmsb
  | 0x9 => .instr .trdlsb
  | 0xA => .instr .polymsb
  | 0xB => .instr .polylsb
  | _ => .illegal .reservedOp

/-- The `OP` values with `UT` = 1 (R51, R54). -/
def decodeUt (op : Nat) : Decoded :=
  match op with
  | 0x3 => .instr .tbmsbU
  | 0x5 => .instr .tblsbU
  | _ => .illegal .utNotAllowed

/-- Decode, total on every 32-bit word (R54): reserved bits first, then `UT`, then `OP`. -/
def decode (c : Word) : Decoded :=
  if (fieldsOf c).reserved ≠ 0 then .illegal .reservedBits
  else if (fieldsOf c).ut then decodeUt (fieldsOf c).op.toNat
  else decodeOp (fieldsOf c).op.toNat

/-- The instruction the decoder reads from the low `nbits` bits of `w`, numbered as opcode_table.json numbers them (bit 0
of the command word is bit 0). A command is one whole 32-bit word with no byte order (R39, R48), and a number that does
not fit a word is no command (log entry 14). -/
def decodeTableWord (nbits w : Nat) : Option Instr :=
  if w % 2 ^ nbits < 2 ^ 32 then
    match decode (BitVec.ofNat 32 (w % 2 ^ nbits)) with
    | .instr i => some i
    | .illegal _ => none
  else none

/-- `OP` and `UT` of each command (R50, R51); the reserved bits are 0 (R52). -/
def Instr.fields : Instr → CmdFields
  | .reflect => { op := 0x1, ut := false, reserved := 0 }
  | .bwmsb => { op := 0x2, ut := false, reserved := 0 }
  | .tbmsb => { op := 0x3, ut := false, reserved := 0 }
  | .bwlsb => { op := 0x4, ut := false, reserved := 0 }
  | .tblsb => { op := 0x5, ut := false, reserved := 0 }
  | .tgenmsb => { op := 0x6, ut := false, reserved := 0 }
  | .tgenlsb => { op := 0x7, ut := false, reserved := 0 }
  | .trdmsb => { op := 0x8, ut := false, reserved := 0 }
  | .trdlsb => { op := 0x9, ut := false, reserved := 0 }
  | .polymsb => { op := 0xA, ut := false, reserved := 0 }
  | .polylsb => { op := 0xB, ut := false, reserved := 0 }
  | .tbmsbU => { op := 0x3, ut := true, reserved := 0 }
  | .tblsbU => { op := 0x5, ut := true, reserved := 0 }

/-- The word with the given fields (R49). -/
def CmdFields.toWord (f : CmdFields) : Word := f.reserved ++ BitVec.ofBool f.ut ++ f.op

/-- The command word of an instruction (R49-R52). -/
def encode (i : Instr) : Word := i.fields.toWord

/-- Register offsets (20_memory.md R32, R57). -/
def HostReg.offset : HostReg → Word
  | .cmd => 0x0
  | .opa => 0x4
  | .opb => 0x8
  | .result => 0xC
  | .status => 0x10

/-- The bus transaction of a statement (R57). -/
def Stmt.toAccess : Stmt → HostAccess
  | .wr r imm => .write r.offset .word imm
  | .rd r => .read r.offset .word
  | .wrb a imm => .write (BitVec.ofNat 32 (0x10000 + a)) .byte (imm.setWidth 32)
  | .rdb a => .read (BitVec.ofNat 32 (0x10000 + a)) .byte
  | .wrt i imm => .write (BitVec.ofNat 32 (0x400 + 4 * i)) .word imm
  | .rdt i => .read (BitVec.ofNat 32 (0x400 + 4 * i)) .word

/-- The pseudo-instruction of each command (R58), with the operands `a` (for `OPA`) and `b` (for `OPB`). Where an operand
is ignored the expansion omits its write. `CMD` is written last. -/
def expand (i : Instr) (a b : Word) : List Stmt :=
  match i with
  | .reflect => [.wr .opa a, .wr .opb b, .wr .cmd 0x00000001]
  | .bwmsb => [.wr .opa a, .wr .opb b, .wr .cmd 0x00000002]
  | .tbmsb => [.wr .opa a, .wr .opb b, .wr .cmd 0x00000003]
  | .tbmsbU => [.wr .opa a, .wr .opb b, .wr .cmd 0x00000013]
  | .bwlsb => [.wr .opa a, .wr .opb b, .wr .cmd 0x00000004]
  | .tblsb => [.wr .opa a, .wr .opb b, .wr .cmd 0x00000005]
  | .tblsbU => [.wr .opa a, .wr .opb b, .wr .cmd 0x00000015]
  | .tgenmsb => [.wr .opa a, .wr .cmd 0x00000006]
  | .tgenlsb => [.wr .opa a, .wr .cmd 0x00000007]
  | .trdmsb => [.wr .opa a, .wr .cmd 0x00000008]
  | .trdlsb => [.wr .opa a, .wr .cmd 0x00000009]
  | .polymsb => [.wr .cmd 0x0000000A]
  | .polylsb => [.wr .cmd 0x0000000B]

end Sys2Proof
end

