-- ==== Sys2Proof/Config.lean ====
section
/-! DEFINITION. What an implementation fixes and the spec leaves open: the capacity of the message buffer
(00_scope.md R5, 92_eei_decisions.md D5). Everything else in R5's table is fixed by the spec. -/

namespace Sys2Proof.Config

/-- DESIGN CHOICE, safe (log entry 1): an arbitrary number, so that nothing can be proved about the capacity beyond
the bounds of R5. -/
opaque msgBytesChoice : Nat

/-- `MSG_BYTES`, the message buffer capacity in bytes: any value with 1 <= MSG_BYTES <= 0xFFFF0000 (R5), and each such
value is the value of some choice. -/
def msgBytes : Nat := msgBytesChoice % 0xFFFF0000 + 1

end Sys2Proof.Config
end

