-- ==== Sys2Proof/Machine/State.lean ====
section
/-! DEFINITION. The machine's state (10_state.md), the state after reset (R27, R120), and the reasons a step can stop. -/

namespace Sys2Proof.Machine

/-- A buffer of locations that are written or unwritten since reset (R28): the written ones, with their values. ONE
canonical form (`Memory.wf`): keys strictly rising. An unlisted location is unwritten and has no value (log entry 15). -/
abbrev Memory (α : Type) := List (Nat × α)

/-- Everything the spec gives the block (10_state.md R14-R26), and four fields of the model's own (`msgBytes`, `pending`,
`readData`; see INVENTORY.md). The constants `POLY_MSB`, `POLY_LSB`, `TBL_MSB`, `TBL_LSB` are no state (R29). -/
structure State where
  /-- `CMD`: the last command word the host wrote (R21). -/
  cmd : Word
  /-- `OPA`: operand A (R15). -/
  opa : Word
  /-- `OPB`: operand B (R16). -/
  opb : Word
  /-- `RESULT`: the result of the last successful command (R18). -/
  result : Word
  /-- `STATUS.ERR`, bits [3:0] of `STATUS` (R19). Bits [31:4] are hardwired 0: `statusWord` reads them so (log entry 8). -/
  err : BitVec 4
  /-- `ACC`, the CRC register (R17): `none` is the spec's "no value", which it has whenever no command runs (R26, R27). -/
  acc : Option Word
  /-- `UTAB`, the caller table: entry by index 0..255 (R24, R28). -/
  utab : Memory Word
  /-- `MSG`, the message buffer: byte by offset 0..MSG_BYTES-1 (R25, R28). -/
  msg : Memory Byte
  /-- The parameter `MSG_BYTES` (R5, R29): configuration, carried here because `step` takes a state alone (log entry 1). -/
  msgBytes : Nat
  /-- The host's accesses and the platform's resets still to come, in issue order (R44, R125; log entry 2). -/
  pending : List HostEvent
  /-- What the last host access returned on the bus: the data of a read, nothing for a write (log entry 3). -/
  readData : Option Word
deriving DecidableEq, Repr

/-- The reasons the machine stops. Both are the spec's own (60_exceptions.md R107). -/
inductive Fault where
  /-- A command or a host read uses a `MSG` byte or `UTAB` entry not written since reset (R28, R107). Raised by the CRC
  commands and by host reads. Safe: the hardware goes on with some RAM value (log entry 5). -/
  | unwrittenOperand
  /-- A host access of the wrong width, a misaligned one or one to an unmapped address (20_memory.md R38, R107). Raised by
  the host port. Safe: the hardware does not perform the access and what the host does next is outside the block (log
  entry 6). -/
  | hostBusError
deriving DecidableEq, Repr

/-- Reasons to refuse an instruction. -/
inductive Refusal where
  /-- The instruction has no meaning yet. Raised only by an arm of `exec`; no arm raises it now. Safe. -/
  | notModelled (mnemonic : String)
deriving DecidableEq, Repr

/-- The outcome of a step or of a command. -/
abbrev Out := Host.Outcome State Fault Refusal

/-- The state after reset of a block with `n` bytes of message buffer (R27, R120): registers 0, `ACC` without a value,
every `MSG` byte and `UTAB` entry unwritten; no access pending and none answered (log entries 2, 3). -/
def State.resetWith (n : Nat) : State :=
  { cmd := 0, opa := 0, opb := 0, result := 0, err := 0, acc := none, utab := [], msg := [], msgBytes := n,
    pending := [], readData := none }

/-- The state after reset of this block (R27), whose capacity is the parameter `MSG_BYTES` (log entry 1). -/
def State.reset : State := State.resetWith Config.msgBytes

end Sys2Proof.Machine
end

