-- ==== Sys2Proof/Machine/Flags.lean ====
section
/-! DEFINITION. `STATUS` and its only field `ERR` (10_state.md R19, 60_exceptions.md R103). The block has no other flags,
condition codes or predicates. -/

namespace Sys2Proof.Machine

/-- The errors a command can raise (R103). -/
inductive CmdError where
  /-- `REFLECT` with `OPB` > 32 (R104). -/
  | invalidWidth
  /-- The word written to `CMD` is no legal command word (R105). -/
  | illegalCommand
  /-- The message range or the table index is out of range (R106). -/
  | operandRange
deriving DecidableEq, Repr

/-- Code 0, `OK`: what every command that completes writes to `ERR` (R103). -/
def okCode : BitVec 4 := 0

/-- The error codes (R103). Codes 4 to 15 are reserved and never produced. -/
def errorCode : CmdError → BitVec 4
  | .invalidWidth => 1
  | .illegalCommand => 2
  | .operandRange => 3

/-- Writing `STATUS.ERR`. The reserved bits are hardwired and cannot be written (R19). -/
def setErr (code : BitVec 4) (s : State) : State := { s with err := code }

/-- `STATUS` as the host reads it: `ERR` in [3:0], the hardwired zeros in [31:4] (R19). -/
def statusWord (s : State) : Word := s.err.setWidth 32

end Sys2Proof.Machine
end

