-- ==== Sys2Proof/Machine/Ops.lean ====
section
/-! DEFINITION. The named operations over buffers, registers and the address map: buffer reads and writes (20_memory.md
R34, R35), the end of a command with and without error (00_scope.md R10, 60_exceptions.md R102), host register access
(10_state.md R14), the address map (20_memory.md R32-R38), and the repeated round of the bit-serial algorithms. -/

namespace Sys2Proof.Machine

/-- The canonical form of a buffer: keys strictly rising, so that equal contents are equal lists. -/
def Memory.wf {α : Type} (m : Memory α) : Bool := decide ((m.map Prod.fst).Pairwise (· < ·))

/-- Every listed location is below `n`. -/
def Memory.below {α : Type} (n : Nat) (m : Memory α) : Bool := m.all fun c => decide (c.1 < n)

/-- Reading one location: its value, or none when it is unwritten (R28). -/
def Memory.read {α : Type} : Memory α → Nat → Option α
  | [], _ => none
  | (b, w) :: m, a => if a = b then some w else Memory.read m a

/-- Writing one location: it then holds the value and counts as written (R34, R35). -/
def Memory.write {α : Type} : Memory α → Nat → α → Memory α
  | [], a, v => [(a, v)]
  | (b, w) :: m, a, v =>
    if a < b then (a, v) :: (b, w) :: m
    else if a = b then (a, v) :: m
    else (b, w) :: Memory.write m a v

/-- A command raises an error: the ONE error entry of the block (R10, R102, R109). `ERR` takes the error's code and nothing
else changes: no state is saved, no mode changes and control goes nowhere. There is no return from an error and nothing to
clear (R110): the next command runs normally and overwrites `ERR`. -/
def raise (e : CmdError) (s : State) : State := setErr (errorCode e) s

/-- A command completes with result `v`: `RESULT` takes it and `ERR` is 0 (R18, R19). -/
def complete (v : Word) (s : State) : State := setErr okCode { s with result := v }

/-- A host read of a register returns the whole register (R33). -/
def readReg (r : HostReg) (s : State) : Word :=
  match r with
  | .cmd => s.cmd
  | .opa => s.opa
  | .opb => s.opb
  | .result => s.result
  | .status => statusWord s

/-- What a host access reaches (R32). -/
inductive Target where
  | register (r : HostReg)
  | reserved
  | utab (i : Nat)
  | msg (a : Nat)
  | busError
deriving DecidableEq, Repr

/-- The word at an address of the register range (R32): the five registers, then reserved words. -/
def registerAt (a : Nat) : Target :=
  if a = 0x0 then .register .cmd
  else if a = 0x4 then .register .opa
  else if a = 0x8 then .register .opb
  else if a = 0xC then .register .result
  else if a = 0x10 then .register .status
  else .reserved

/-- The width and alignment that registers, reserved words and `UTAB` take: an aligned 32-bit access (R33, R35). -/
def wordAligned (a : Nat) (w : Width) : Bool :=
  match w with
  | .word => decide (a % 4 = 0)
  | .half => false
  | .byte => false

/-- The width that `MSG` takes: one byte (R34). -/
def byteWide (w : Width) : Bool :=
  match w with
  | .byte => true
  | .half => false
  | .word => false

/-- The address map (R32) with its widths and alignment (R33-R35): what the access reaches, or a bus error for a wrong
width, a misaligned or an unmapped access (R38). -/
def target (msgBytes : Nat) (addr : Word) (w : Width) : Target :=
  if addr.toNat < 0x400 then
    if wordAligned addr.toNat w then registerAt addr.toNat else .busError
  else if addr.toNat < 0x800 then
    if wordAligned addr.toNat w then .utab ((addr.toNat - 0x400) / 4) else .busError
  else if addr.toNat < 0x10000 then
    if wordAligned addr.toNat w then .reserved else .busError
  else if addr.toNat < 0x10000 + msgBytes then
    if byteWide w then .msg (addr.toNat - 0x10000) else .busError
  else .busError

/-- `repeat n`: a round applied `n` times in sequence (R8). -/
def rounds (f : Word → Word) : Nat → Word → Word
  | 0, w => w
  | n + 1, w => rounds f n (f w)

end Sys2Proof.Machine
end

