-- ==== Sys2Proof/Machine/Operands.lean ====
section
/-! DEFINITION. The operand forms of the commands (30_encoding.md R53): a reflection width, a table index, a message. Each
is read from `OPA` and `OPB`, with its range check before any other read (60_exceptions.md R106, R108). -/

namespace Sys2Proof.Machine

/-- What reading an operand gives: its value, the error the command raises, or an unwritten location (R108). -/
inductive Operand (α : Type) where
  | value (a : α)
  | error (e : CmdError)
  | unwritten
deriving DecidableEq, Repr

/-- Going on with an operand: an error ends the command at once (R10), an unwritten location is the model's fault (R107). -/
def withOperand {α : Type} (o : Operand α) (s : State) (k : α → Out) : Out :=
  match o with
  | .value a => k a
  | .error e => .next (raise e s)
  | .unwritten => .fault .unwrittenOperand

/-- The width operand of `REFLECT`: `OPB`, valid when at most 32, else InvalidWidth; never truncated or clamped (R62). -/
def widthOperand (s : State) : Operand Nat :=
  if s.opb.toNat ≤ 32 then .value s.opb.toNat else .error .invalidWidth

/-- The table index operand: `OPA`, at most 255, else OperandRange; refused, not wrapped (R53, R96-R99). -/
def indexOperand (s : State) : Operand Byte :=
  if s.opa.toNat ≤ 255 then .value (BitVec.ofNat 8 s.opa.toNat) else .error .operandRange

/-- The `n` bytes of `MSG` from `off`, in increasing offset order, each read once (R41); none when one is unwritten. -/
def readBytes (m : Memory Byte) : Nat → Nat → Option (List Byte)
  | _, 0 => some []
  | off, n + 1 =>
    match Memory.read m off, readBytes m (off + 1) n with
    | some b, some bs => some (b :: bs)
    | _, _ => none

/-- The message operand (R41): `OPB` bytes from offset `OPA`. The sum is exact, with no 32-bit wrap, and is checked before
any byte is read (R106). -/
def messageOperand (s : State) : Operand (List Byte) :=
  if s.opa.toNat + s.opb.toNat ≤ s.msgBytes then
    match readBytes s.msg s.opa.toNat s.opb.toNat with
    | some m => .value m
    | none => .unwritten
  else .error .operandRange

end Sys2Proof.Machine
end

