-- ==== Sys2Proof/Machine/Engine.lean ====
section
/-! DEFINITION. The steps common to every CRC command (41_bitwise_engines.md R71), over the CRC register `ACC`
(10_state.md R17). An engine is its byte update: the new `ACC` from the old one and the next message byte, or none when
the update reads an unwritten table entry. -/

namespace Sys2Proof.Machine

/-- R71 step 2: `ACC` is allocated with initial value 0 (R2, R17). -/
def startAcc (s : State) : State := { s with acc := some 0 }

/-- One message byte through the engine: `ACC` takes the updated value. Without an `ACC` value no engine runs and nothing
is updated. -/
def stepAcc (upd : Word → Byte → Option Word) (b : Byte) (s : State) : Option State :=
  match s.acc with
  | some a => (upd a b).map fun a' => { s with acc := some a' }
  | none => some s

/-- R71 step 3: the engine's loop over the message, byte index `p` = 0, 1, ... (R20). It ends after `len(m)` byte steps. -/
def engineLoop (upd : Word → Byte → Option Word) : List Byte → State → Option State
  | [], s => some s
  | b :: m, s =>
    match stepAcc upd b s with
    | some s' => engineLoop upd m s'
    | none => none

/-- R71 steps 4 and 5: `RESULT` takes `out ACC` (`ACC` itself for the MSB engines, `rev_32(ACC)` for the LSB engines; no
final XOR), `ERR` is 0, and `ACC` is discarded (R17, R26). -/
def deliver (out : Word → Word) (s : State) : State :=
  match s.acc with
  | some a => complete (out a) { s with acc := none }
  | none => s

/-- A CRC command (R71): take the message (R41), clear `ACC`, run the loop, deliver. Reading an unwritten table entry is
the model's fault (R28). -/
def crcCommand (upd : Word → Byte → Option Word) (out : Word → Word) (s : State) : Out :=
  withOperand (messageOperand s) s fun m =>
    match engineLoop upd m (startAcc s) with
    | some s' => .next (deliver out s')
    | none => .fault .unwrittenOperand

end Sys2Proof.Machine
end

