-- ==== Sys2Proof/Machine/Reflector.lean ====
section
/-! DEFINITION. The bit reflector and the polynomial constants (40_reflector_and_constants.md), and the commands
`REFLECT`, `POLYMSB`, `POLYLSB`. -/

namespace Sys2Proof.Machine

/-- One step of the loop of R60: bit `i` of the value, when set, adds 2^(w-1-i) to the result. -/
def revStep (w : Nat) (v : Word) (r : Word) (i : Nat) : Word :=
  if v.getLsbD i then r + BitVec.ofNat 32 (2 ^ (w - 1 - i)) else r

/-- `rev_w(v)`: the low `w` bits of `v` in reverse order, for 0 <= w <= 32 (R60). -/
def rev (w : Nat) (v : Word) : Word := (List.range w).foldl (revStep w v) 0

/-- `POLY_MSB`, the normal form of the generator polynomial (R66). -/
def polyMsb : Word := 0x741B8CD7

/-- `POLY_LSB` is always derived from `POLY_MSB` by the reflector, never an independent constant (R22, R67). -/
def polyLsb : Word := rev 32 polyMsb

/-- `REFLECT` (R61): InvalidWidth when `OPB` > 32 (R62). -/
def execReflect (s : State) : Out :=
  withOperand (widthOperand s) s fun w => .next (complete (rev w s.opa) s)

/-- `POLYMSB` (R68): no operands, no errors. -/
def execPolymsb (s : State) : Out := .next (complete polyMsb s)

/-- `POLYLSB` (R69): no operands, no errors. -/
def execPolylsb (s : State) : Out := .next (complete polyLsb s)

end Sys2Proof.Machine
end

