-- ==== Sys2Proof/Machine/Bitwise.lean ====
section
/-! DEFINITION. The bitwise engines (41_bitwise_engines.md) and the commands `BWMSB` and `BWLSB`. -/

namespace Sys2Proof.Machine

/-- One bit of the MSB-first engine (R72): sample `acc[31]`, shift left, then XOR `POLY_MSB` when the sampled bit and the
message bit differ. -/
def msbBit (acc : Word) (bit : Bool) : Word :=
  if acc.getLsbD 31 ^^ bit then (acc <<< 1) ^^^ polyMsb else acc <<< 1

/-- Message bits k-1 downto 0 of one byte, in that order (R40, R72). -/
def msbBits (b : Byte) : Nat → Word → Word
  | 0, acc => acc
  | k + 1, acc => msbBits b k (msbBit acc (b.getLsbD k))

/-- One message byte of the MSB-first engine: bit 7 first, bit 0 last (R72). -/
def bwMsbByte (acc : Word) (b : Byte) : Word := msbBits b 8 acc

/-- `crc_bw_msb(m)` (R72). -/
def crcBwMsb (m : List Byte) : Word := m.foldl bwMsbByte 0

/-- One round of the LSB-first engine (R74): the low bit is tested before the shift. -/
def lsbRound (acc : Word) : Word :=
  if acc.getLsbD 0 then (acc >>> 1) ^^^ polyLsb else acc >>> 1

/-- One message byte of the LSB-first engine (R74): the byte enters `acc[7:0]` as it stands, then 8 rounds. -/
def bwLsbByte (acc : Word) (b : Byte) : Word := rounds lsbRound 8 (acc ^^^ b.setWidth 32)

/-- `crc_bw_lsb_raw(m)` (R74). -/
def crcBwLsbRaw (m : List Byte) : Word := m.foldl bwLsbByte 0

/-- `crc_bw_lsb(m)` (R75): the final register, reflected. The input bytes are not reflected. -/
def crcBwLsb (m : List Byte) : Word := rev 32 (crcBwLsbRaw m)

/-- `BWMSB` (R73): `RESULT` is the final `ACC`, not reflected. -/
def execBwmsb (s : State) : Out := crcCommand (fun acc b => some (bwMsbByte acc b)) (fun acc => acc) s

/-- `BWLSB` (R76): `RESULT` is `rev_32` of the final `ACC`. -/
def execBwlsb (s : State) : Out := crcCommand (fun acc b => some (bwLsbByte acc b)) (fun acc => rev 32 acc) s

end Sys2Proof.Machine
end

