-- ==== Sys2Proof/Machine/TableDriven.lean ====
section
/-! DEFINITION. The table engines (42_table_engines.md R87, R92) and the commands `TBMSB`, `TBMSB.U`, `TBLSB`, `TBLSB.U`. -/

namespace Sys2Proof.Machine

/-- The index of the MSB-first table engine (R87): the top byte of the register XOR the message byte. -/
def msbIndex (acc : Word) (b : Byte) : Byte := ((acc >>> 24) ^^^ b.setWidth 32).setWidth 8

/-- The register update of the MSB-first table engine with table entry `e` (R87). -/
def msbShift (acc e : Word) : Word := (acc <<< 8) ^^^ e

/-- One message byte of the MSB-first table engine, with table `t` (R87). -/
def tbMsbByte (t : Byte → Word) (acc : Word) (b : Byte) : Word := msbShift acc (t (msbIndex acc b))

/-- `crc_tb_msb(m, T)` (R87). -/
def crcTbMsb (t : Byte → Word) (m : List Byte) : Word := m.foldl (tbMsbByte t) 0

/-- The index of the LSB-first table engine (R92): the low byte of the register XOR the message byte. -/
def lsbIndex (acc : Word) (b : Byte) : Byte := (acc ^^^ b.setWidth 32).setWidth 8

/-- The register update of the LSB-first table engine with table entry `e` (R92). -/
def lsbShift (acc e : Word) : Word := (acc >>> 8) ^^^ e

/-- One message byte of the LSB-first table engine, with table `t` (R92). -/
def tbLsbByte (t : Byte → Word) (acc : Word) (b : Byte) : Word := lsbShift acc (t (lsbIndex acc b))

/-- `crc_tb_lsb_raw(m, T)` (R92). -/
def crcTbLsbRaw (t : Byte → Word) (m : List Byte) : Word := m.foldl (tbLsbByte t) 0

/-- `TBMSB` (R88): the built-in MSB table. -/
def execTbmsb (s : State) : Out :=
  crcCommand (fun acc b => some (tbMsbByte (tabRead tblMsb) acc b)) (fun acc => acc) s

/-- `TBLSB` (R93): the built-in LSB table; the result is reflected. -/
def execTblsb (s : State) : Out :=
  crcCommand (fun acc b => some (tbLsbByte (tabRead tblLsb) acc b)) (fun acc => rev 32 acc) s

/-- `TBMSB.U` (R89): the caller table, of which only the selected entries are read; its contents are not checked (R24). -/
def execTbmsbU (s : State) : Out :=
  crcCommand (fun acc b => (utabRead s (msbIndex acc b)).map (msbShift acc)) (fun acc => acc) s

/-- `TBLSB.U` (R94): the caller table; the final reflection is applied whatever the table holds. -/
def execTblsbU (s : State) : Out :=
  crcCommand (fun acc b => (utabRead s (lsbIndex acc b)).map (lsbShift acc)) (fun acc => rev 32 acc) s

end Sys2Proof.Machine
end

