-- ==== Sys2Proof/Machine/TableRead.lean ====
section
/-! DEFINITION. The table generator commands `TGENMSB`, `TGENLSB` and the table read commands `TRDMSB`, `TRDLSB`
(42_table_engines.md R96-R99). `OPB` is ignored. -/

namespace Sys2Proof.Machine

/-- `TGENMSB` (R96): computes the entry afresh and does not read `TBL_MSB`. -/
def execTgenmsb (s : State) : Out :=
  withOperand (indexOperand s) s fun i => .next (complete (genMsb i) s)

/-- `TGENLSB` (R97): computes the entry afresh and does not read `TBL_LSB`. -/
def execTgenlsb (s : State) : Out :=
  withOperand (indexOperand s) s fun i => .next (complete (genLsb i) s)

/-- `TRDMSB` (R98): reads the built-in table. -/
def execTrdmsb (s : State) : Out :=
  withOperand (indexOperand s) s fun i => .next (complete (tabRead tblMsb i) s)

/-- `TRDLSB` (R99): reads the built-in table. -/
def execTrdlsb (s : State) : Out :=
  withOperand (indexOperand s) s fun i => .next (complete (tabRead tblLsb i) s)

end Sys2Proof.Machine
end

