-- ==== Sys2Proof/Machine/Dispatch.lean ====
section
/-! DEFINITION. One arm per command: the command's rule, run on the state at its `CMD` write. -/

namespace Sys2Proof.Machine

def exec (i : Instr) (s : State) : Host.Outcome State Fault Refusal :=
  match i with
  -- 40_reflector_and_constants.md
  | .reflect => Sys2Proof.Machine.execReflect s
  -- 41_bitwise_engines.md, 42_table_engines.md
  | .bwmsb => Sys2Proof.Machine.execBwmsb s
  | .tbmsb => Sys2Proof.Machine.execTbmsb s
  | .bwlsb => Sys2Proof.Machine.execBwlsb s
  | .tblsb => Sys2Proof.Machine.execTblsb s
  -- 42_table_engines.md section 4
  | .tgenmsb => Sys2Proof.Machine.execTgenmsb s
  | .tgenlsb => Sys2Proof.Machine.execTgenlsb s
  | .trdmsb => Sys2Proof.Machine.execTrdmsb s
  | .trdlsb => Sys2Proof.Machine.execTrdlsb s
  -- 40_reflector_and_constants.md section 3
  | .polymsb => Sys2Proof.Machine.execPolymsb s
  | .polylsb => Sys2Proof.Machine.execPolylsb s
  -- the caller-table forms, 42_table_engines.md
  | .tbmsbU => Sys2Proof.Machine.execTbmsbU s
  | .tblsbU => Sys2Proof.Machine.execTblsbU s

end Sys2Proof.Machine
end

