-- ==== Sys2Proof/Machine/HostPort.lean ====
section
/-! DEFINITION. The host port (20_memory.md): host reads, host writes, the command a write to `CMD` runs (30_encoding.md
R48), and the platform's reset (70_reset_and_hazards.md R120). -/

namespace Sys2Proof.Machine

/-- A write of `c` to `CMD` (R48): `CMD` takes the word, then it is decoded and the command's rule runs to its end, all in
one atomic step (R42, R127). An illegal word raises IllegalCommand before any operand is read (R105). -/
def runCommand (c : Word) (s : State) : Out :=
  match decode c with
  | .instr i => exec i { s with cmd := c }
  | .illegal _ => .next (raise .illegalCommand { s with cmd := c })

/-- A host write to a register (R37): `CMD` starts a command, `OPA` and `OPB` are replaced, `RESULT` and `STATUS` ignore
the write. -/
def writeReg (r : HostReg) (v : Word) (s : State) : Out :=
  match r with
  | .cmd => runCommand v s
  | .opa => .next { s with opa := v }
  | .opb => .next { s with opb := v }
  | .result => .next s
  | .status => .next s

/-- The read access returns `v` on the bus and changes nothing else (R43). -/
def answer (v : Word) (s : State) : State := { s with readData := some v }

/-- A host read (R33-R36): a register or a table entry whole, a reserved word as 0, a message byte zero-extended. An
unwritten entry is the model's fault (R28), as is a bus error (R38). -/
def hostRead (addr : Word) (w : Width) (s : State) : Out :=
  match target s.msgBytes addr w with
  | .register r => .next (answer (readReg r s) s)
  | .reserved => .next (answer 0 s)
  | .utab i =>
    match Memory.read s.utab i with
    | some v => .next (answer v s)
    | none => .fault .unwrittenOperand
  | .msg a =>
    match Memory.read s.msg a with
    | some b => .next (answer (b.setWidth 32) s)
    | none => .fault .unwrittenOperand
  | .busError => .fault .hostBusError

/-- A host write (R33-R37): a message byte takes `v[7:0]`, a table entry the whole word, a reserved word ignores it. A bus
error is the model's fault (R38). -/
def hostWrite (addr : Word) (w : Width) (v : Word) (s : State) : Out :=
  match target s.msgBytes addr w with
  | .register r => writeReg r v s
  | .reserved => .next s
  | .utab i => .next { s with utab := Memory.write s.utab i v }
  | .msg a => .next { s with msg := Memory.write s.msg a (v.setWidth 8) }
  | .busError => .fault .hostBusError

/-- The platform's reset (R120): every register at its reset value, every `MSG` byte and `UTAB` entry unwritten. What the
host issues afterwards is still to come, and the capacity is the block's own (log entry 4). -/
def platformReset (s : State) : State := { State.resetWith s.msgBytes with pending := s.pending }

/-- One event at the host port. -/
def hostEvent (e : HostEvent) (s : State) : Out :=
  match e with
  | .access (.read addr w) => hostRead addr w s
  | .access (.write addr w v) => hostWrite addr w v s
  | .reset => .next (platformReset s)

/-- The next event in issue order (R44) is taken from `pending`, and the bus answer of the access before it is gone. With
none pending the block waits for host accesses (R123; log entry 2). -/
def takeEvent (s : State) : Out :=
  match s.pending with
  | [] => .next s
  | e :: rest => hostEvent e { s with pending := rest, readData := none }

/-- The host issues a write of the low `nbits` bits of `w` to `CMD` before everything else it has still to issue. -/
def issueCommand (nbits w : Nat) (s : State) : State :=
  { s with
    pending := .access (.write HostReg.cmd.offset .word (BitVec.ofNat 32 (w % 2 ^ nbits))) :: s.pending }

end Sys2Proof.Machine
end

