-- ==== Sys2Proof/Machine/Step.lean ====
section
/-! DEFINITION. One step of the machine: one host access or reset (70_reset_and_hazards.md R127). -/

namespace Sys2Proof.Machine

/-- One step: the next host event, whole; a write to `CMD` runs its command to the end (R127). -/
def step (s : State) : Host.Outcome State Fault Refusal := takeEvent s

/-- The block fetches nothing (10_state.md R20, 20_memory.md R46): its next command is the word the host writes to `CMD`
next. So the word is put where the step takes it, as the host's next write to `CMD` (log entry 2). -/
def State.withFetchWord (s : State) (nbits w : Nat) : State := issueCommand nbits w s

end Sys2Proof.Machine
end

