-- ==== Sys2Proof/Safety.lean ====
section
/-! DEFINITION. What claims call a safe run: the invariant of the state between commands, the operands a command needs
(70_reset_and_hazards.md R124), and when a step goes on. -/

namespace Sys2Proof.Machine

/-- The invariant of the state between two steps. -/
structure State.Inv (s : State) : Prop where
  /-- The capacity is one the spec allows (R5). -/
  capacity : 1 ≤ s.msgBytes ∧ s.msgBytes ≤ 0xFFFF0000
  /-- The message buffer is in canonical form and has no byte outside it (R25). -/
  msgForm : Memory.wf s.msg = true ∧ Memory.below s.msgBytes s.msg = true
  /-- The caller table is in canonical form and has no entry outside 0..255 (R24). -/
  utabForm : Memory.wf s.utab = true ∧ Memory.below 256 s.utab = true
  /-- Codes 4 to 15 are never produced (R19, R103). -/
  errProduced : s.err.toNat ≤ 3
  /-- No value of `ACC` survives a command (R17, R26). -/
  accNone : s.acc = none

/-- The message range `OPA .. OPA+OPB-1` lies in the buffer, the sum taken exactly (R41). -/
def State.MessageInRange (s : State) : Prop := s.opa.toNat + s.opb.toNat ≤ s.msgBytes

/-- The bytes of `m` are the written bytes of `MSG` in the message range (R41; boot requirement R124 step 1). -/
def State.MessageIs (s : State) (m : List Byte) : Prop :=
  m.length = s.opb.toNat ∧ ∀ p b, m[p]? = some b → Memory.read s.msg (s.opa.toNat + p) = some b

/-- A step that goes on: no access that breaks the host's duties (R38) and no use of an unwritten location (R28). -/
def State.Goes (s : State) : Prop := ∃ t, step s = .next t

end Sys2Proof.Machine
end

