-- ==== Sys2Proof/Certificates/Slice0/Obligations.lean ====
section
/-! DEFINITION. The statements for the provers, from the numbered rules of spec/, and the words they are said in
(namespace Sys2Proof.Claims). -/

open Sys2Proof Sys2Proof.Machine

/-! ## The words of the statements -/

namespace Sys2Proof.Claims

/-- The 13 legal words with their commands, written out from 30_encoding.md R50 and R51. -/
def opcodeTable : List (Word × Instr) :=
  [(0x00000001, .reflect), (0x00000002, .bwmsb), (0x00000003, .tbmsb), (0x00000004, .bwlsb), (0x00000005, .tblsb),
   (0x00000006, .tgenmsb), (0x00000007, .tgenlsb), (0x00000008, .trdmsb), (0x00000009, .trdlsb),
   (0x0000000A, .polymsb), (0x0000000B, .polylsb), (0x00000013, .tbmsbU), (0x00000015, .tblsbU)]

/-- The illegal words as R55 lists them: reserved bits set, `OP` 0x0 or 0xC to 0xF, or `UT` = 1 with an `OP` other than 0x3
or 0x5. -/
def IllegalWord (c : Word) : Prop :=
  c.toNat / 2 ^ 5 ≠ 0 ∨ c.toNat % 16 = 0 ∨ 0xC ≤ c.toNat % 16 ∨
    (c.getLsbD 4 = true ∧ c.toNat % 16 ≠ 0x3 ∧ c.toNat % 16 ≠ 0x5)

/-- The six CRC commands (R71). -/
def crcCommands : List Instr := [.bwmsb, .tbmsb, .tbmsbU, .bwlsb, .tblsb, .tblsbU]

/-- The four commands with a table index (R53). -/
def indexCommands : List Instr := [.tgenmsb, .tgenlsb, .trdmsb, .trdlsb]

/-- The state in which the engine meets the next host access: the access is taken from the host's list, and the bus answer of
the one before is gone. The list and the bus answer are fields of the model's own (log entries 2 and 3). -/
def taken (s : State) (rest : List HostEvent) : State := { s with pending := rest, readData := none }

/-- The host's next transaction is a read. -/
def NextIsRead (s : State) (addr : Word) (w : Width) (rest : List HostEvent) : Prop :=
  s.pending = .access (.read addr w) :: rest

/-- The host's next transaction is a write. -/
def NextIsWrite (s : State) (addr : Word) (w : Width) (v : Word) (rest : List HostEvent) : Prop :=
  s.pending = .access (.write addr w v) :: rest

/-- The accesses the block performs, from the map of R32 and the widths of R33 to R35. -/
def LegalAccess (msgBytes : Nat) (addr : Word) (w : Width) : Prop :=
  (addr.toNat < 0x10000 ∧ w = .word ∧ addr.toNat % 4 = 0) ∨
    (0x10000 ≤ addr.toNat ∧ addr.toNat < 0x10000 + msgBytes ∧ w = .byte)

/-- `k` steps of the machine, up to the first stop. -/
def runSteps : Nat → State → Out
  | 0, s => .next s
  | k + 1, s =>
    match step s with
    | .next t => runSteps k t
    | .fault r => .fault r
    | .refused r => .refused r

/-- `rev_8` of a message byte (R60). -/
def revByte (b : Byte) : Byte := (rev 8 (b.setWidth 32)).setWidth 8

/-- `rbytes(m)`: each byte reflected (R78). -/
def rbytes (m : List Byte) : List Byte := m.map revByte

/-- `a XOR b`, bytewise (R79). -/
def xorBytes (a b : List Byte) : List Byte := List.zipWith (fun x y => x ^^^ y) a b

/-- `zeros(k)` (R80). -/
def zeros (k : Nat) : List Byte := List.replicate k 0

/-- `bytes(0..n-1)` (R11). -/
def bytesFrom0 (n : Nat) : List Byte := (List.range n).map (BitVec.ofNat 8)

/-- The 16 bit-palindromic bytes as R84 lists them. -/
def palindromes : List Byte :=
  [0x00, 0x18, 0x24, 0x3C, 0x42, 0x5A, 0x66, 0x7E, 0x81, 0x99, 0xA5, 0xBD, 0xC3, 0xDB, 0xE7, 0xFF]

/-- The table of V-TB-5: entry 0xFF is 0xDEADBEEF and every other entry 0. -/
def oneEntry (i : Byte) : Word := if i = 0xFF then 0xDEADBEEF else 0

/-- The indices the MSB-first table engine selects over `m` from register value `acc` (R87). -/
def msbSelected (t : Byte → Word) : List Byte → Word → List Byte
  | [], _ => []
  | b :: m, acc => msbIndex acc b :: msbSelected t m (tbMsbByte t acc b)

/-- The indices the LSB-first table engine selects over `m` from register value `acc` (R92). -/
def lsbSelected (t : Byte → Word) : List Byte → Word → List Byte
  | [], _ => []
  | b :: m, acc => lsbIndex acc b :: lsbSelected t m (tbLsbByte t acc b)

/-- `UTAB[i]` is written and holds `t i` (R24, R28). -/
def EntryIs (s : State) (t : Byte → Word) (i : Byte) : Prop := Memory.read s.utab i.toNat = some (t i)

/-- What a command needs so that it gives a fixed result with no error (R53, R124): a valid width, a valid index, or a
message in range with every byte written and, for the caller-table forms, every `UTAB` entry written. -/
def Ready (i : Instr) (s : State) : Prop :=
  match i with
  | .reflect => s.opb.toNat ≤ 32
  | .bwmsb | .tbmsb | .bwlsb | .tblsb =>
    s.opa.toNat + s.opb.toNat ≤ s.msgBytes ∧
      ∀ p, p < s.opb.toNat → ∃ b, Memory.read s.msg (s.opa.toNat + p) = some b
  | .tbmsbU | .tblsbU =>
    s.opa.toNat + s.opb.toNat ≤ s.msgBytes ∧
      (∀ p, p < s.opb.toNat → ∃ b, Memory.read s.msg (s.opa.toNat + p) = some b) ∧
      ∀ j, j < 256 → ∃ v, Memory.read s.utab j = some v
  | .tgenmsb | .tgenlsb | .trdmsb | .trdlsb => s.opa.toNat ≤ 255
  | .polymsb | .polylsb => True

/-- The commands whose pseudo-instruction writes `OPA` (R58). -/
def writesOpa : Instr → Bool
  | .polymsb | .polylsb => false
  | .reflect | .bwmsb | .tbmsb | .bwlsb | .tblsb | .tbmsbU | .tblsbU | .tgenmsb | .tgenlsb | .trdmsb | .trdlsb => true

/-- The commands whose pseudo-instruction writes `OPB` (R58). -/
def writesOpb : Instr → Bool
  | .reflect | .bwmsb | .tbmsb | .bwlsb | .tblsb | .tbmsbU | .tblsbU => true
  | .polymsb | .polylsb | .tgenmsb | .tgenlsb | .trdmsb | .trdlsb => false

/-! ### The spec's pseudocode, over natural numbers with every mask written out (R7, R8) -/

/-- `v[i]` (R6). -/
def bitOf (v i : Nat) : Nat := v / 2 ^ i % 2

/-- R60. -/
def revPseudo (w v : Nat) : Nat :=
  (List.range w).foldl (fun r i => if bitOf v i = 1 then r + 2 ^ (w - 1 - i) else r) 0

/-- R72: the body of `for k in 7 downto 0`. -/
def msbBitPseudo (byte acc k : Nat) : Nat :=
  if bitOf acc 31 ^^^ bitOf byte k = 1 then (acc * 2 % 2 ^ 32) ^^^ 0x741B8CD7 else acc * 2 % 2 ^ 32

/-- R72. -/
def crcBwMsbPseudo (m : List Nat) : Nat :=
  m.foldl (fun acc byte => [7, 6, 5, 4, 3, 2, 1, 0].foldl (msbBitPseudo byte) acc) 0

/-- R74, R91: one right-shifting round. -/
def rightRoundPseudo (acc : Nat) : Nat := if bitOf acc 0 = 1 then (acc / 2) ^^^ 0xEB31D82E else acc / 2

/-- R74. -/
def crcBwLsbRawPseudo (m : List Nat) : Nat := m.foldl (fun acc byte => rightRoundPseudo^[8] (acc ^^^ byte)) 0

/-- R86: one left-shifting round. -/
def leftRoundPseudo (w : Nat) : Nat := if bitOf w 31 = 1 then ((w * 2) ^^^ 0x741B8CD7) % 2 ^ 32 else w * 2 % 2 ^ 32

/-- R86. -/
def genMsbPseudo (i : Nat) : Nat := leftRoundPseudo^[8] (i * 2 ^ 24)

/-- R91. -/
def genLsbPseudo (i : Nat) : Nat := rightRoundPseudo^[8] i % 2 ^ 32

/-- R87. -/
def crcTbMsbPseudo (t : Nat → Nat) (m : List Nat) : Nat :=
  m.foldl (fun acc byte => ((acc * 2 ^ 8 % 2 ^ 32) ^^^ t (((acc / 2 ^ 24) ^^^ byte) % 2 ^ 8)) % 2 ^ 32) 0

/-- R92. -/
def crcTbLsbRawPseudo (t : Nat → Nat) (m : List Nat) : Nat :=
  m.foldl (fun acc byte => ((acc / 2 ^ 8) ^^^ t ((acc ^^^ byte) % 2 ^ 8)) % 2 ^ 32) 0

/-! ### Polynomials over GF(2) (R70, R77) -/

open Polynomial in
/-- A list of bits as a polynomial over GF(2), the head the highest coefficient and the last the coefficient of x^0. -/
noncomputable def bitsPoly (bits : List Bool) : (ZMod 2)[X] :=
  bits.foldl (fun p b => p * X + (if b then 1 else 0)) 0

/-- The bits of a message in the MSB engine's order: the first byte's bit 7 first, the last byte's bit 0 last (R40, R77). -/
def msgBits (m : List Byte) : List Bool := m.flatMap fun b => (List.range 8).map fun k => b.getLsbD (7 - k)

/-- The bits of a word, bit 31 first, so that bit i is the coefficient of x^i. -/
def wordBits (w : Word) : List Bool := (List.range 32).map fun k => w.getLsbD (31 - k)

open Polynomial in
/-- The generator `P(x)` of R70. -/
noncomputable def genPoly : (ZMod 2)[X] :=
  X ^ 32 + X ^ 30 + X ^ 29 + X ^ 28 + X ^ 26 + X ^ 20 + X ^ 19 + X ^ 17 + X ^ 16 + X ^ 15 + X ^ 11 + X ^ 10 + X ^ 7 +
    X ^ 6 + X ^ 4 + X ^ 2 + X + 1

end Sys2Proof.Claims

open Sys2Proof.Claims

/-! ## Command words (30_encoding.md) -/

/-- R54: exactly the 13 words are legal, each for its command, and every other word written to `CMD` raises
IllegalCommand. -/
def Obligations.ExactlyThirteenWordsAreLegal : Prop :=
  (∀ (c : Word) (i : Instr), decode c = .instr i ↔ (c, i) ∈ opcodeTable) ∧
  ∀ (c : Word) (s : State), c ∉ opcodeTable.map Prod.fst → runCommand c s = .next { s with cmd := c, err := 2 }

/-- The words of the opcode table, written out from the spec, decode to their commands (R50, R51). -/
def Obligations.OpcodeTableWordsDecode : Prop :=
  ∀ p ∈ opcodeTable, decode p.1 = .instr p.2 ∧ decodeTableWord 32 p.1.toNat = some p.2 ∧ encode p.2 = p.1

/-- Decode and encode agree both ways, for all commands and all words (R49 to R54). -/
def Obligations.DecodeEncodeAgree : Prop :=
  (∀ (i : Instr) (c : Word),
    decode c = .instr i ↔ c = encode i) ∧ ∀ i : Instr, (fieldsOf (encode i)).wf = true ∧ i.wf = true

/-- R55 (with R52 and R105): the illegal words are the listed ones, they are all but the 13, and writing one sets `CMD` and
`ERR` and changes nothing else. -/
def Obligations.IllegalWordRaisesIllegalCommand : Prop :=
  (∀ c : Word, IllegalWord c ↔ c ∉ opcodeTable.map Prod.fst) ∧
  ∀ (s : State) (c : Word) (rest : List HostEvent), IllegalWord c → NextIsWrite s 0x0 .word c rest →
    step s = .next { taken s rest with cmd := c, err := 2 }

/-! ## Reflector and constants (40_reflector_and_constants.md) -/

/-- R60: `rev_w(v)[j] = v[w-1-j]` below `w` and 0 from `w` on, the result is below 2^w, and it is the value of the rule's
loop. -/
def Obligations.ReflectionReversesTheLowBits : Prop :=
  ∀ (w : Nat) (v : Word), w ≤ 32 →
    (∀ j, j < w → (rev w v).getLsbD j = v.getLsbD (w - 1 - j)) ∧
    (∀ j, w ≤ j → (rev w v).getLsbD j = false) ∧
    (rev w v).toNat < 2 ^ w ∧
    (rev w v).toNat = revPseudo w v.toNat

/-- The laws of `rev_w` (R63, which the spec derives from R60). -/
def Obligations.ReflectionLaws : Prop :=
  (∀ (w : Nat) (x y : Word), w ≤ 32 →
    (rev w (rev w x)).toNat = x.toNat % 2 ^ w ∧
    (x.toNat < 2 ^ w → rev w (rev w x) = x) ∧
    rev w (x ^^^ y) = rev w x ^^^ rev w y ∧
    rev w 0 = 0 ∧
    rev w (BitVec.ofNat 32 (2 ^ w - 1)) = BitVec.ofNat 32 (2 ^ w - 1)) ∧
  ∀ i, i < 32 → rev 32 (BitVec.ofNat 32 (2 ^ i)) = BitVec.ofNat 32 (2 ^ (31 - i))

/-- R61 and R62: the result of `REFLECT` for every valid width, InvalidWidth for every other, and the corner cases. -/
def Obligations.ReflectResult : Prop :=
  decode 0x00000001 = .instr .reflect ∧
  (∀ s : State, s.opb.toNat ≤ 32 → exec .reflect s = .next { s with result := rev s.opb.toNat s.opa, err := 0 }) ∧
  (∀ s : State, 32 < s.opb.toNat → exec .reflect s = .next { s with err := 1 }) ∧
  (∀ v : Word, rev 0 v = 0 ∧ rev 1 v = BitVec.ofNat 32 (v.toNat % 2)) ∧
  (∀ (w : Nat) (v v' : Word), w ≤ 32 → v.toNat % 2 ^ w = v'.toNat % 2 ^ w → rev w v = rev w v') ∧
  (∀ (w : Nat) (v : Word),
    w ≤ 32 → v.toNat < 2 ^ w → (∀ j, j < w → v.getLsbD j = v.getLsbD (w - 1 - j)) → rev w v = v) ∧
  rev 8 0xFFFFFF01 = 0x00000080 ∧ rev 32 0xFFFFFFFF = 0xFFFFFFFF ∧ rev 8 0xA5 = 0xA5 ∧
  rev 32 0x741B8CD7 = 0xEB31D82E

/-- R68 and R69: `POLYMSB` and `POLYLSB` read the constants in every state; `POLYLSB` gives what `REFLECT` gives for
`POLYMSB`'s result and width 32. -/
def Obligations.PolynomialConstantsRead : Prop :=
  decode 0x0000000A = .instr .polymsb ∧ decode 0x0000000B = .instr .polylsb ∧
  (∀ s : State, exec .polymsb s = .next { s with result := 0x741B8CD7, err := 0 }) ∧
  (∀ s : State, exec .polylsb s = .next { s with result := 0xEB31D82E, err := 0 }) ∧
  polyMsb = 0x741B8CD7 ∧ polyLsb = 0xEB31D82E ∧ polyLsb = rev 32 polyMsb ∧ rev 32 polyLsb = polyMsb

/-! ## Bitwise engines (41_bitwise_engines.md) -/

/-- R72, R74, R75: the bit-vector engines compute the rules' pseudocode over natural numbers. -/
def Obligations.BitwiseEnginesFollowThePseudocode : Prop :=
  ∀ m : List Byte,
    (crcBwMsb m).toNat = crcBwMsbPseudo (m.map BitVec.toNat) ∧
    (crcBwLsbRaw m).toNat = crcBwLsbRawPseudo (m.map BitVec.toNat) ∧
    (crcBwLsb m).toNat = revPseudo 32 (crcBwLsbRawPseudo (m.map BitVec.toNat))

/-- R73: `BWMSB` over every readable message, out of range, and the corner cases. -/
def Obligations.BitwiseMsbResult : Prop :=
  decode 0x00000002 = .instr .bwmsb ∧
  (∀ (s : State) (m : List Byte), s.MessageInRange → s.MessageIs m →
    exec .bwmsb s = .next { s with result := crcBwMsb m, err := 0, acc := none }) ∧
  (∀ s : State, ¬s.MessageInRange → exec .bwmsb s = .next { s with err := 3 }) ∧
  crcBwMsb [] = 0 ∧ (∀ k, crcBwMsb (zeros k) = 0) ∧ (∀ k m, crcBwMsb (zeros k ++ m) = crcBwMsb m) ∧
  crcBwMsb [0x01] = 0x741B8CD7

/-- R76: `BWLSB` over every readable message, out of range, and the corner cases. -/
def Obligations.BitwiseLsbResult : Prop :=
  decode 0x00000004 = .instr .bwlsb ∧
  (∀ (s : State) (m : List Byte), s.MessageInRange → s.MessageIs m →
    exec .bwlsb s = .next { s with result := rev 32 (crcBwLsbRaw m), err := 0, acc := none }) ∧
  (∀ s : State, ¬s.MessageInRange → exec .bwlsb s = .next { s with err := 3 }) ∧
  rev 32 (crcBwLsbRaw []) = 0 ∧ (∀ k, rev 32 (crcBwLsbRaw (zeros k)) = 0) ∧
  (∀ m, rev 32 (crcBwLsbRaw m) = crcBwMsb m ↔ crcBwMsb (xorBytes m (rbytes m)) = 0) ∧
  crcBwLsbRaw [0x01] = 0x9695C4CA ∧ rev 32 (crcBwLsbRaw [0x01]) = 0x5323A969 ∧
  rev 32 (crcBwLsbRaw [0x01]) ≠ crcBwMsb [0x01] ∧ rev 32 (crcBwLsbRaw [0x80]) = 0x741B8CD7

/-- The meaning of the MSB engine (R77, which the spec derives): `crc_bw_msb(m)` is `(M(x) * x^32) mod P(x)`. -/
def Obligations.MsbCrcIsPolynomialRemainder : Prop :=
  ∀ m : List Byte, bitsPoly (wordBits (crcBwMsb m)) = (bitsPoly (msgBits m) * Polynomial.X ^ 32) %ₘ genPoly

/-- The LSB engine computes the MSB engine over bit-reversed bytes (R78, which the spec derives). -/
def Obligations.LsbEngineIsMsbEngineOnReflectedBytes : Prop :=
  ∀ m : List Byte, crcBwLsb m = crcBwMsb (rbytes m) ∧ crcBwLsbRaw m = rev 32 (crcBwMsb (rbytes m))

/-- Linearity over messages of equal length (R79, which the spec derives). -/
def Obligations.CrcIsLinear : Prop :=
  ∀ a b : List Byte, a.length = b.length →
    crcBwMsb (xorBytes a b) = crcBwMsb a ^^^ crcBwMsb b ∧
    crcBwLsbRaw (xorBytes a b) = crcBwLsbRaw a ^^^ crcBwLsbRaw b ∧
    crcBwLsb (xorBytes a b) = crcBwLsb a ^^^ crcBwLsb b

/-- Leading zero bytes change nothing, trailing ones can, and all-zero messages give 0 (R80, R81, which the spec derives). -/
def Obligations.LeadingZeroBytesChangeNothing : Prop :=
  (∀ k m, crcBwMsb (zeros k ++ m) = crcBwMsb m ∧ crcBwLsbRaw (zeros k ++ m) = crcBwLsbRaw m) ∧
  (∀ k, crcBwMsb (zeros k) = 0 ∧ crcBwLsb (zeros k) = 0) ∧
  (∃ m, crcBwMsb (m ++ zeros 1) ≠ crcBwMsb m) ∧ ∃ m, crcBwLsbRaw (m ++ zeros 1) ≠ crcBwLsbRaw m

/-- A single byte's CRC is its table entry (R82, which the spec derives). -/
def Obligations.SingleByteCrcIsTheTableEntry : Prop :=
  (∀ b, crcBwMsb [b] = tabRead tblMsb b ∧ crcBwLsbRaw [b] = tabRead tblLsb b) ∧
  crcBwMsb [0x01] = polyMsb ∧ crcBwLsbRaw [0x80] = polyLsb

/-- The result of the four built-in engines depends on the message bytes alone (R83, which the spec derives): not on the
offset, an earlier result, the rest of the buffer or anything else of the state. -/
def Obligations.CrcDependsOnTheMessageAlone : Prop :=
  ∀ i ∈ [Instr.bwmsb, .tbmsb, .bwlsb, .tblsb], ∀ m, ∃ r, ∀ s : State, s.MessageInRange → s.MessageIs m →
    exec i s = .next { s with result := r, err := 0, acc := none }

/-- When MSB and LSB results agree (R84, which the spec derives and which corrects the source, 90_conflicts.md C1). -/
def Obligations.MsbAndLsbAgreeExactlyWhen : Prop :=
  (∀ m, crcBwMsb m = crcBwLsb m ↔ crcBwMsb (xorBytes m (rbytes m)) = 0) ∧
  (∀ m, (∀ b ∈ m, revByte b = b) → crcBwMsb m = crcBwLsb m) ∧
  (∀ b, revByte b = b ↔ b ∈ palindromes) ∧
  (∀ m, crcBwLsb (rbytes m) = crcBwMsb m) ∧
  crcBwMsb [0x00] = crcBwLsb [0x00] ∧ crcBwMsb [0xFF] = crcBwLsb [0xFF] ∧ crcBwMsb [0x01] ≠ crcBwLsb [0x01] ∧
  crcBwMsb (bytesFrom0 125) = 0x47E1651A ∧ crcBwLsb (bytesFrom0 125) = 0x0631B73A

/-! ## Table engines, generators, tables (42_table_engines.md) -/

/-- R86, R91, R87, R92: the generators, the ROM contents and the table engines compute the rules' pseudocode. -/
def Obligations.TableAlgorithmsFollowThePseudocode : Prop :=
  (∀ i : Byte, (genMsb i).toNat = genMsbPseudo i.toNat ∧ tabRead tblMsb i = genMsb i) ∧
  (∀ i : Byte, (genLsb i).toNat = genLsbPseudo i.toNat ∧ tabRead tblLsb i = genLsb i) ∧
  ∀ (t : Byte → Word) (m : List Byte),
    (crcTbMsb t m).toNat = crcTbMsbPseudo (fun i => (t (BitVec.ofNat 8 i)).toNat) (m.map BitVec.toNat) ∧
    (crcTbLsbRaw t m).toNat = crcTbLsbRawPseudo (fun i => (t (BitVec.ofNat 8 i)).toNat) (m.map BitVec.toNat)

/-- R88: `TBMSB` over every readable message, out of range, and the corner cases with the worked example. -/
def Obligations.TableMsbResult : Prop :=
  decode 0x00000003 = .instr .tbmsb ∧
  (∀ (s : State) (m : List Byte), s.MessageInRange → s.MessageIs m →
    exec .tbmsb s = .next { s with result := crcTbMsb (tabRead tblMsb) m, err := 0, acc := none }) ∧
  (∀ s : State, ¬s.MessageInRange → exec .tbmsb s = .next { s with err := 3 }) ∧
  crcTbMsb (tabRead tblMsb) [] = 0 ∧ (∀ m, crcTbMsb (tabRead tblMsb) m = crcBwMsb m) ∧
  msbSelected (tabRead tblMsb) [0x12, 0x34] 0 = [0x12, 0xA5] ∧
  crcTbMsb (tabRead tblMsb) [0x12] = 0x91D6FE2C ∧ crcTbMsb (tabRead tblMsb) [0x12, 0x34] = 0xA6707931

/-- R93: `TBLSB` over every readable message, out of range, and the corner cases with the worked example. -/
def Obligations.TableLsbResult : Prop :=
  decode 0x00000005 = .instr .tblsb ∧
  (∀ (s : State) (m : List Byte), s.MessageInRange → s.MessageIs m →
    exec .tblsb s = .next { s with result := rev 32 (crcTbLsbRaw (tabRead tblLsb) m), err := 0, acc := none }) ∧
  (∀ s : State, ¬s.MessageInRange → exec .tblsb s = .next { s with err := 3 }) ∧
  rev 32 (crcTbLsbRaw (tabRead tblLsb) []) = 0 ∧
  (∀ m, rev 32 (crcTbLsbRaw (tabRead tblLsb) m) = crcBwLsb m) ∧
  (∀ m, rev 32 (crcTbLsbRaw (tabRead tblLsb) m) = crcBwMsb m ↔ crcBwMsb (xorBytes m (rbytes m)) = 0) ∧
  lsbSelected (tabRead tblLsb) [0x12, 0x34] 0 = [0x12, 0xC1] ∧
  crcTbLsbRaw (tabRead tblLsb) [0x12] = 0x788736F5 ∧ crcTbLsbRaw (tabRead tblLsb) [0x12, 0x34] = 0x084477C5 ∧
  rev 32 (crcTbLsbRaw (tabRead tblLsb) [0x12, 0x34]) = 0xA3EE2210

/-- R89: `TBMSB.U` with any caller table whose SELECTED entries are written, out of range, with a selected entry unwritten,
with a copy of the built-in table, and the corner cases. -/
def Obligations.CallerTableMsbResult : Prop :=
  decode 0x00000013 = .instr .tbmsbU ∧
  (∀ (s : State) (m : List Byte) (t : Byte → Word), s.MessageInRange → s.MessageIs m →
    (∀ i ∈ msbSelected t m 0, EntryIs s t i) →
    exec .tbmsbU s = .next { s with result := crcTbMsb t m, err := 0, acc := none }) ∧
  (∀ s : State, ¬s.MessageInRange → exec .tbmsbU s = .next { s with err := 3 }) ∧
  (∀ (s : State) (m m' : List Byte) (b : Byte) (t : Byte → Word), s.MessageInRange → s.MessageIs (m ++ b :: m') →
    (∀ i ∈ msbSelected t m 0, EntryIs s t i) → Memory.read s.utab (msbIndex (crcTbMsb t m) b).toNat = none →
    exec .tbmsbU s = .fault .unwrittenOperand) ∧
  (∀ s : State, (∀ i, EntryIs s (tabRead tblMsb) i) → exec .tbmsbU s = exec .tbmsb s) ∧
  (∀ s : State, s.MessageInRange → s.opb = 0 → exec .tbmsbU s = .next { s with result := 0, err := 0, acc := none }) ∧
  (∀ m, crcTbMsb (fun _ => 0) m = 0) ∧
  crcTbMsb oneEntry [0xFF] = 0xDEADBEEF ∧ crcTbMsb oneEntry [0xFF, 0x00] = 0xADBEEF00

/-- R94: `TBLSB.U` with any caller table whose SELECTED entries are written, out of range, with a selected entry unwritten,
with a copy of the built-in table, and the worked examples. -/
def Obligations.CallerTableLsbResult : Prop :=
  decode 0x00000015 = .instr .tblsbU ∧
  (∀ (s : State) (m : List Byte) (t : Byte → Word), s.MessageInRange → s.MessageIs m →
    (∀ i ∈ lsbSelected t m 0, EntryIs s t i) →
    exec .tblsbU s = .next { s with result := rev 32 (crcTbLsbRaw t m), err := 0, acc := none }) ∧
  (∀ s : State, ¬s.MessageInRange → exec .tblsbU s = .next { s with err := 3 }) ∧
  (∀ (s : State) (m m' : List Byte) (b : Byte) (t : Byte → Word), s.MessageInRange → s.MessageIs (m ++ b :: m') →
    (∀ i ∈ lsbSelected t m 0, EntryIs s t i) → Memory.read s.utab (lsbIndex (crcTbLsbRaw t m) b).toNat = none →
    exec .tblsbU s = .fault .unwrittenOperand) ∧
  (∀ s : State, (∀ i, EntryIs s (tabRead tblLsb) i) → exec .tblsbU s = exec .tblsb s) ∧
  crcTbLsbRaw oneEntry [0xFF] = 0xDEADBEEF ∧ rev 32 (crcTbLsbRaw oneEntry [0xFF]) = 0xF77DB57B ∧
  crcTbLsbRaw oneEntry [0xFF, 0x00] = 0x00DEADBE ∧ rev 32 (crcTbLsbRaw oneEntry [0xFF, 0x00]) = 0x7DB57B00

/-- `TBMSB` and `BWMSB` always agree (R90, which the spec derives): the engines for every message, the commands in every
state, errors and faults included. -/
def Obligations.TableMsbEqualsBitwiseMsb : Prop :=
  (∀ m, crcTbMsb (tabRead tblMsb) m = crcBwMsb m) ∧ (∀ i, tabRead tblMsb i = crcBwMsb [i]) ∧
  ∀ s : State, exec .tbmsb s = exec .bwmsb s

/-- `TBLSB` and `BWLSB` always agree (R95, which the spec derives). -/
def Obligations.TableLsbEqualsBitwiseLsb : Prop :=
  (∀ m, crcTbLsbRaw (tabRead tblLsb) m = crcBwLsbRaw m) ∧ ∀ s : State, exec .tblsb s = exec .bwlsb s

/-- R96 and R97: the generator commands, for every index and out of range. -/
def Obligations.GeneratorCommandsResult : Prop :=
  decode 0x00000006 = .instr .tgenmsb ∧ decode 0x00000007 = .instr .tgenlsb ∧
  (∀ (s : State) (i : Byte), s.opa.toNat = i.toNat →
    exec .tgenmsb s = .next { s with result := genMsb i, err := 0 } ∧
    exec .tgenlsb s = .next { s with result := genLsb i, err := 0 }) ∧
  (∀ s : State, 255 < s.opa.toNat →
    exec .tgenmsb s = .next { s with err := 3 } ∧ exec .tgenlsb s = .next { s with err := 3 }) ∧
  genMsb 0 = 0 ∧ genLsb 0 = 0 ∧ genMsb 0x80 = 0x5323A969 ∧ genLsb 0x01 = 0x9695C4CA

/-- R98 and R99: the table read commands, for every index and out of range; in every state each gives what the generator
command of its table gives. -/
def Obligations.TableReadCommandsResult : Prop :=
  decode 0x00000008 = .instr .trdmsb ∧ decode 0x00000009 = .instr .trdlsb ∧
  (∀ (s : State) (i : Byte), s.opa.toNat = i.toNat →
    exec .trdmsb s = .next { s with result := tabRead tblMsb i, err := 0 } ∧
    exec .trdlsb s = .next { s with result := tabRead tblLsb i, err := 0 }) ∧
  (∀ s : State, 255 < s.opa.toNat →
    exec .trdmsb s = .next { s with err := 3 } ∧ exec .trdlsb s = .next { s with err := 3 }) ∧
  (∀ s : State, exec .trdmsb s = exec .tgenmsb s ∧ exec .trdlsb s = exec .tgenlsb s) ∧
  tabRead tblMsb 0xFF = 0x4E344A03 ∧ tabRead tblLsb 0x80 = 0xEB31D82E

/-- The laws of the built-in tables (R100, which the spec derives). -/
def Obligations.BuiltInTableLaws : Prop :=
  tabRead tblMsb 0 = 0 ∧ tabRead tblLsb 0 = 0 ∧ tabRead tblMsb 0x01 = polyMsb ∧ tabRead tblLsb 0x80 = polyLsb ∧
  (∀ a b, tabRead tblMsb (a ^^^ b) = tabRead tblMsb a ^^^ tabRead tblMsb b) ∧
  (∀ a b, tabRead tblLsb (a ^^^ b) = tabRead tblLsb a ^^^ tabRead tblLsb b) ∧
  (∀ i, tabRead tblLsb i = rev 32 (tabRead tblMsb (revByte i))) ∧
  tblMsb.toList.foldl (fun x y => x ^^^ y) 0 = 0 ∧ tblLsb.toList.foldl (fun x y => x ^^^ y) 0 = 0 ∧
  tblMsb.toList.foldl (fun x y => x + y) 0 = 0xFFFFFF80 ∧ tblLsb.toList.foldl (fun x y => x + y) 0 = 0xFFFFFF80

/-! ## Errors (60_exceptions.md) -/

/-- R103: every error code, exactly when it is produced; the operands and the word stay where they are. -/
def Obligations.ErrorCodesExactly : Prop :=
  (∀ (i : Instr) (s t : State), exec i s = .next t →
    (t.err = 1 ↔ i = .reflect ∧ 32 < s.opb.toNat) ∧ t.err ≠ 2 ∧
    (t.err = 3 ↔ (i ∈ crcCommands ∧ s.msgBytes < s.opa.toNat + s.opb.toNat) ∨
      (i ∈ indexCommands ∧ 255 < s.opa.toNat)) ∧
    t.err.toNat ≤ 3 ∧ t.opa = s.opa ∧ t.opb = s.opb ∧ t.cmd = s.cmd) ∧
  ∀ (c : Word) (s t : State), runCommand c s = .next t →
    (t.err = 2 ↔ c ∉ opcodeTable.map Prod.fst) ∧ t.err.toNat ≤ 3 ∧ t.cmd = c ∧ t.opa = s.opa ∧ t.opb = s.opb

/-- R102 (and R10): a command that raises an error writes its code to `ERR` and changes nothing else. -/
def Obligations.ErrorsWriteOnlyErr : Prop :=
  (∀ (i : Instr) (s t : State), exec i s = .next t → t.err ≠ 0 → t = { s with err := t.err }) ∧
  ∀ (c : Word) (s t : State), runCommand c s = .next t → t.err ≠ 0 → t = { s with cmd := c, err := t.err }

/-- R106: OperandRange comes before any message byte or table entry is read, so whatever `MSG` and `UTAB` hold, and the sum
does not wrap. -/
def Obligations.OperandRangeComesBeforeAnyRead : Prop :=
  (∀ i ∈ crcCommands, ∀ s : State, s.msgBytes < s.opa.toNat + s.opb.toNat → exec i s = .next { s with err := 3 }) ∧
  (∀ i ∈ indexCommands, ∀ s : State, 255 < s.opa.toNat → exec i s = .next { s with err := 3 }) ∧
  ∀ i ∈ crcCommands, ∀ s : State, s.msgBytes ≤ 0xFFFF0000 → s.opa = 0xFFFFFFFF → s.opb = 2 →
    exec i s = .next { s with err := 3 }

/-- An unwritten location is a fault, never a value (R28, R107): a CRC command over an unwritten message byte, whatever
else it would read, and a host read of an unwritten byte or entry. -/
def Obligations.UnwrittenLocationsFault : Prop :=
  (∀ i ∈ crcCommands, ∀ (s : State) (p : Nat), s.opa.toNat + s.opb.toNat ≤ s.msgBytes → p < s.opb.toNat →
    Memory.read s.msg (s.opa.toNat + p) = none → exec i s = .fault .unwrittenOperand) ∧
  (∀ (s : State) (a : Nat) (addr : Word) (rest : List HostEvent),
    a < s.msgBytes → addr.toNat = 0x10000 + a → Memory.read s.msg a = none →
    NextIsRead s addr .byte rest → step s = .fault .unwrittenOperand) ∧
  ∀ (s : State) (i : Nat) (addr : Word) (rest : List HostEvent),
    i < 256 → addr.toNat = 0x400 + 4 * i → Memory.read s.utab i = none →
    NextIsRead s addr .word rest → step s = .fault .unwrittenOperand

/-! ## Frames and whole-machine rules -/

/-- The frame of every command: it writes `RESULT`, `ERR` and `ACC` and nothing else; every register, every byte of `MSG` and
every entry of `UTAB` is as before. -/
def Obligations.CommandsWriteOnlyResultErrAcc : Prop :=
  ∀ (i : Instr) (s t : State), exec i s = .next t →
    t.cmd = s.cmd ∧ t.opa = s.opa ∧ t.opb = s.opb ∧ t.msgBytes = s.msgBytes ∧ t.pending = s.pending ∧
    t.readData = s.readData ∧
    (∀ a, Memory.read t.msg a = Memory.read s.msg a) ∧ (∀ j, Memory.read t.utab j = Memory.read s.utab j) ∧
    (i ∉ crcCommands → t.acc = s.acc) ∧ (t.acc = s.acc ∨ t.acc = none)

/-- R43: host reads change nothing but the bus answer, a host write other than to `CMD` changes its location only and
writing the same again changes nothing more, a write to `CMD` changes `CMD` and what commands write, and a command's outcome
depends on `OPA`, `OPB`, `MSG` and `UTAB` alone (and the capacity). -/
def Obligations.OnlyCmdWritesHaveSideEffects : Prop :=
  (∀ (s t : State) (addr : Word) (w : Width) (rest : List HostEvent),
    NextIsRead s addr w rest → step s = .next t → t = { taken s rest with readData := t.readData }) ∧
  (∀ (s t : State) (addr : Word) (w : Width) (v : Word) (rest : List HostEvent),
    NextIsWrite s addr w v rest → addr ≠ 0x0 → step s = .next t →
    t = { taken s rest with opa := t.opa, opb := t.opb, msg := t.msg, utab := t.utab } ∧
    (addr ≠ 0x4 → t.opa = s.opa) ∧ (addr ≠ 0x8 → t.opb = s.opb) ∧
    (∀ a, addr.toNat ≠ 0x10000 + a → Memory.read t.msg a = Memory.read s.msg a) ∧
    (∀ j, addr.toNat ≠ 0x400 + 4 * j → Memory.read t.utab j = Memory.read s.utab j) ∧
    step { t with pending := .access (.write addr w v) :: rest } = .next t) ∧
  (∀ (s t : State) (v : Word) (rest : List HostEvent), NextIsWrite s 0x0 .word v rest → step s = .next t →
    t = { taken s rest with cmd := v, result := t.result, err := t.err, acc := t.acc }) ∧
  (∀ (i : Instr) (s s' t : State), s'.opa = s.opa → s'.opb = s.opb → s'.msg = s.msg → s'.utab = s.utab →
    s'.msgBytes = s.msgBytes → exec i s = .next t →
    ∃ t', exec i s' = .next t' ∧ t'.err = t.err ∧ (t.err = 0 → t'.result = t.result))

/-- The boot requirements are enough (R124, R127): a command whose operands are ready completes without error, and straight
after reset every CRC command computes over the empty message and gives 0, whatever the capacity. -/
def Obligations.ReadyCommandsComplete : Prop :=
  (∀ (i : Instr) (s : State), Ready i s →
    ∃ v, exec i s = .next { s with result := v, err := 0, acc := if i ∈ crcCommands then none else s.acc }) ∧
  ∀ i ∈ crcCommands, ∀ n : Nat,
    exec i (State.resetWith n) = .next { State.resetWith n with result := 0, err := 0, acc := none }

/-- The model's invariant holds after reset, whatever the open capacity MSG_BYTES is (R5, R19, R25 to R28). -/
def Obligations.InvariantHoldsAtReset : Prop :=
  State.reset.Inv ∧ ∀ n : Nat, 1 ≤ n → n ≤ 0xFFFF0000 → (State.resetWith n).Inv

/-- Every step keeps the invariant: the buffers stay in canonical form and inside their bounds, codes 4 to 15 are never
produced, no value of `ACC` survives a command, and the capacity never changes. -/
def Obligations.InvariantKeptByEveryStep : Prop :=
  ∀ s t : State, s.Inv → step s = .next t → t.Inv ∧ t.msgBytes = s.msgBytes

/-- `ERR` names its command (R19, R21, R103; R50 for `REFLECT`'s word): a non-zero code is explained by the word that `CMD`
still holds. It holds after reset (R27) and every step keeps it. -/
def Obligations.ErrIsExplainedByCmd : Prop :=
  let explained : State → Prop := fun s =>
    (s.err = 1 → s.cmd = 0x00000001) ∧ (s.err = 2 → s.cmd ∉ opcodeTable.map Prod.fst) ∧
    (s.err = 3 → ∃ i, (s.cmd, i) ∈ opcodeTable ∧ (i ∈ crcCommands ∨ i ∈ indexCommands))
  explained State.reset ∧ ∀ s t : State, explained s → step s = .next t → explained t

/-! ## Reset (10_state.md R27, 70_reset_and_hazards.md R120) -/

/-- R120: from every state, a reset leaves each of the spec's registers 0 and each buffer location unwritten, and the
constants as they are; no command resets. -/
def Obligations.ResetClearsRegistersAndBuffers : Prop :=
  (∀ (s : State) (rest : List HostEvent), s.pending = .reset :: rest → ∃ t, step s = .next t ∧
    readReg .cmd t = 0 ∧ readReg .opa t = 0 ∧ readReg .opb t = 0 ∧ readReg .result t = 0 ∧ readReg .status t = 0 ∧
    t.acc = none ∧ (∀ a, Memory.read t.msg a = none) ∧ (∀ j, Memory.read t.utab j = none) ∧
    polyMsb = 0x741B8CD7 ∧ polyLsb = 0xEB31D82E) ∧
  ∀ (i : Instr) (s t : State), exec i s = .next t →
    readReg .cmd t = readReg .cmd s ∧ readReg .opa t = readReg .opa s ∧ readReg .opb t = readReg .opb s ∧
    (∀ a, Memory.read t.msg a = Memory.read s.msg a) ∧ ∀ j, Memory.read t.utab j = Memory.read s.utab j

/-- The state after reset (R27), field by field, with the tables complete (R122). -/
def Obligations.StateAfterReset : Prop :=
  readReg .cmd State.reset = 0 ∧ readReg .opa State.reset = 0 ∧ readReg .opb State.reset = 0 ∧
  readReg .result State.reset = 0 ∧ readReg .status State.reset = 0 ∧ State.reset.acc = none ∧
  polyMsb = 0x741B8CD7 ∧ polyLsb = 0xEB31D82E ∧
  (∀ i, tabRead tblMsb i = genMsb i ∧ tabRead tblLsb i = genLsb i) ∧
  (∀ j, Memory.read State.reset.utab j = none) ∧ ∀ a, Memory.read State.reset.msg a = none

/-! ## The host port (20_memory.md, 30_encoding.md) -/

/-- A step runs the decoded command: when the host's next transaction writes a legal word to `CMD`, the step is `exec` of its
command, on the state with the word in `CMD` and the transaction taken (R48); the same for the word that `withFetchWord`
places. -/
def Obligations.StepRunsTheDecodedCommand : Prop :=
  (∀ (s : State) (c : Word) (rest : List HostEvent) (i : Instr), NextIsWrite s 0x0 .word c rest → decode c = .instr i →
    step s = exec i { taken s rest with cmd := c }) ∧
  ∀ (s : State) (w : Nat) (i : Instr), w < 2 ^ 32 → decodeTableWord 32 w = some i →
    step (s.withFetchWord 32 w) = exec i { taken s s.pending with cmd := BitVec.ofNat 32 w }

/-- A host read of a register gives the whole register and changes nothing; `STATUS` reads `ERR` with zeros above it (R15,
R16, R18, R19, R21, R33). -/
def Obligations.RegistersReadWhole : Prop :=
  (∀ (s : State) (rest : List HostEvent),
    NextIsRead s 0x00 .word rest → step s = .next { taken s rest with readData := some s.cmd }) ∧
  (∀ (s : State) (rest : List HostEvent),
    NextIsRead s 0x04 .word rest → step s = .next { taken s rest with readData := some s.opa }) ∧
  (∀ (s : State) (rest : List HostEvent),
    NextIsRead s 0x08 .word rest → step s = .next { taken s rest with readData := some s.opb }) ∧
  (∀ (s : State) (rest : List HostEvent),
    NextIsRead s 0x0C .word rest → step s = .next { taken s rest with readData := some s.result }) ∧
  ∀ (s : State) (rest : List HostEvent), NextIsRead s 0x10 .word rest →
    step s = .next { taken s rest with readData := some (BitVec.ofNat 32 s.err.toNat) }

/-- R37: writes to `RESULT` and `STATUS` have no effect, writes to `OPA` and `OPB` replace them, a write to `CMD` starts the
command. -/
def Obligations.RegisterWrites : Prop :=
  (∀ (s : State) (v : Word) (rest : List HostEvent), NextIsWrite s 0x0C .word v rest → step s = .next (taken s rest)) ∧
  (∀ (s : State) (v : Word) (rest : List HostEvent), NextIsWrite s 0x10 .word v rest → step s = .next (taken s rest)) ∧
  (∀ (s : State) (v : Word) (rest : List HostEvent),
    NextIsWrite s 0x04 .word v rest → step s = .next { taken s rest with opa := v }) ∧
  (∀ (s : State) (v : Word) (rest : List HostEvent),
    NextIsWrite s 0x08 .word v rest → step s = .next { taken s rest with opb := v }) ∧
  ∀ (s : State) (v : Word) (rest : List HostEvent),
    NextIsWrite s 0x00 .word v rest → step s = runCommand v (taken s rest)

/-- R36: a reserved word reads as 0 and ignores writes. -/
def Obligations.ReservedWordsReadZero : Prop :=
  ∀ (s : State) (addr : Word) (rest : List HostEvent), addr.toNat % 4 = 0 →
    ((0x14 ≤ addr.toNat ∧ addr.toNat < 0x400) ∨ (0x800 ≤ addr.toNat ∧ addr.toNat < 0x10000)) →
    (NextIsRead s addr .word rest → step s = .next { taken s rest with readData := some 0 }) ∧
    ∀ v, NextIsWrite s addr .word v rest → step s = .next (taken s rest)

/-- R38: an access of the wrong width, a misaligned one or one to an unmapped address is a bus error, and no other access
is. -/
def Obligations.BusErrorsExactly : Prop :=
  (∀ (s : State) (addr : Word) (w : Width) (rest : List HostEvent), NextIsRead s addr w rest →
    (step s = .fault .hostBusError ↔ ¬LegalAccess s.msgBytes addr w)) ∧
  ∀ (s : State) (addr : Word) (w : Width) (v : Word) (rest : List HostEvent), NextIsWrite s addr w v rest →
    (step s = .fault .hostBusError ↔ ¬LegalAccess s.msgBytes addr w)

/-- R34: a byte write sets one byte of `MSG` and marks it written, a byte read returns it zero-extended, wider accesses are
bus errors. -/
def Obligations.MessageBufferAccess : Prop :=
  ∀ (s : State) (a : Nat) (addr : Word) (rest : List HostEvent), a < s.msgBytes → addr.toNat = 0x10000 + a →
    (∀ v, NextIsWrite s addr .byte v rest →
      ∃ mem, step s = .next { taken s rest with msg := mem } ∧
        Memory.read mem a = some (BitVec.ofNat 8 (v.toNat % 2 ^ 8)) ∧
        ∀ a', a' ≠ a → Memory.read mem a' = Memory.read s.msg a') ∧
    (∀ b, Memory.read s.msg a = some b → NextIsRead s addr .byte rest →
      step s = .next { taken s rest with readData := some (BitVec.ofNat 32 b.toNat) }) ∧
    (∀ w v, w ≠ .byte → NextIsWrite s addr w v rest → step s = .fault .hostBusError) ∧
    ∀ w, w ≠ .byte → NextIsRead s addr w rest → step s = .fault .hostBusError

/-- R35: an aligned word write sets one entry of `UTAB` and marks it written, a read returns it, other widths and alignments
are bus errors. -/
def Obligations.CallerTableAccess : Prop :=
  (∀ (s : State) (i : Nat) (addr : Word) (rest : List HostEvent), i < 256 → addr.toNat = 0x400 + 4 * i →
    (∀ v, NextIsWrite s addr .word v rest →
      ∃ tab, step s = .next { taken s rest with utab := tab } ∧
        Memory.read tab i = some v ∧ ∀ j, j ≠ i → Memory.read tab j = Memory.read s.utab j) ∧
    ∀ v, Memory.read s.utab i = some v → NextIsRead s addr .word rest →
      step s = .next { taken s rest with readData := some v }) ∧
  ∀ (s : State) (addr : Word) (w : Width) (rest : List HostEvent),
    0x400 ≤ addr.toNat → addr.toNat < 0x800 → (w ≠ .word ∨ addr.toNat % 4 ≠ 0) →
    (∀ v, NextIsWrite s addr w v rest → step s = .fault .hostBusError) ∧
    (NextIsRead s addr w rest → step s = .fault .hostBusError)

/-- A well-formed statement is one transaction that reaches the location it names (the table of R57; the text form of
R57's statements is notation and is not modelled). -/
def Obligations.StatementsReachTheirLocations : Prop :=
  HostReg.cmd.offset = 0x0 ∧ HostReg.opa.offset = 0x4 ∧ HostReg.opb.offset = 0x8 ∧ HostReg.result.offset = 0xC ∧
  HostReg.status.offset = 0x10 ∧
  ∀ n : Nat, n ≤ 0xFFFF0000 →
    (∀ r v, (Stmt.wr r v).toAccess = .write r.offset .word v ∧ target n r.offset .word = .register r) ∧
    (∀ r, (Stmt.rd r).toAccess = .read r.offset .word) ∧
    (∀ a v, (Stmt.wrb a v).wf n = true → ∃ addr, (Stmt.wrb a v).toAccess = .write addr .byte (BitVec.ofNat 32 v.toNat) ∧
      addr.toNat = 0x10000 + a ∧ target n addr .byte = .msg a) ∧
    (∀ a, (Stmt.rdb a).wf n = true → ∃ addr, (Stmt.rdb a).toAccess = .read addr .byte ∧ addr.toNat = 0x10000 + a ∧
      target n addr .byte = .msg a) ∧
    (∀ i v, (Stmt.wrt i v).wf n = true → ∃ addr, (Stmt.wrt i v).toAccess = .write addr .word v ∧
      addr.toNat = 0x400 + 4 * i ∧ target n addr .word = .utab i) ∧
    ∀ i, (Stmt.rdt i).wf n = true → ∃ addr, (Stmt.rdt i).toAccess = .read addr .word ∧ addr.toNat = 0x400 + 4 * i ∧
      target n addr .word = .utab i

/-- R58: a pseudo-instruction writes its operands that are not ignored, `OPA` first, then `CMD`; it runs its command on
them, `OPA` and `OPB` hold them afterwards, and an ignored operand's register keeps its old value. -/
def Obligations.PseudoInstructionsRunTheirCommand : Prop :=
  (∀ (i : Instr) (a b : Word), expand i a b =
    (if writesOpa i then [.wr .opa a] else []) ++ (if writesOpb i then [.wr .opb b] else []) ++ [.wr .cmd (encode i)]) ∧
  ∀ (i : Instr) (a b : Word) (s : State) (rest : List HostEvent),
    s.pending = (expand i a b).map (fun st => HostEvent.access st.toAccess) ++ rest →
    runSteps (expand i a b).length s =
      exec i { taken s rest with
        cmd := encode i, opa := if writesOpa i then a else s.opa, opb := if writesOpb i then b else s.opb } ∧
    ∀ t, runSteps (expand i a b).length s = .next t →
      t.opa = (if writesOpa i then a else s.opa) ∧ t.opb = (if writesOpb i then b else s.opb)

/-- What follows a command sees its complete effect and cannot change it (R42, R44, R59, R125): reads of `RESULT` and
`STATUS` right after a `CMD` write give that command's outcome, writes to `OPA`, `OPB`, `MSG` and `UTAB` right after it take
only their own effect on the state the command left, and a second `CMD` write runs on that state. -/
def Obligations.CommandIsCompleteBeforeTheNextAccess : Prop :=
  ∀ (s t : State) (c : Word) (e : HostAccess) (rest : List HostEvent),
    s.pending = .access (.write 0x0 .word c) :: .access e :: rest →
    runCommand c (taken s (.access e :: rest)) = .next t →
    (e = .read 0x0C .word → runSteps 2 s = .next { taken t rest with readData := some t.result }) ∧
    (e = .read 0x10 .word → runSteps 2 s = .next { taken t rest with readData := some (BitVec.ofNat 32 t.err.toNat) }) ∧
    (∀ v, e = .write 0x4 .word v → runSteps 2 s = .next { taken t rest with opa := v }) ∧
    (∀ v, e = .write 0x8 .word v → runSteps 2 s = .next { taken t rest with opb := v }) ∧
    (∀ a addr v, a < s.msgBytes → addr.toNat = 0x10000 + a → e = .write addr .byte v →
      ∃ mem, runSteps 2 s = .next { taken t rest with msg := mem } ∧
        Memory.read mem a = some (BitVec.ofNat 8 (v.toNat % 2 ^ 8)) ∧
        ∀ a', a' ≠ a → Memory.read mem a' = Memory.read s.msg a') ∧
    (∀ i addr v, i < 256 → addr.toNat = 0x400 + 4 * i → e = .write addr .word v →
      ∃ tab, runSteps 2 s = .next { taken t rest with utab := tab } ∧
        Memory.read tab i = some v ∧ ∀ j, j ≠ i → Memory.read tab j = Memory.read s.utab j) ∧
    (∀ c', e = .write 0x0 .word c' → runSteps 2 s = runCommand c' (taken t rest))

/-- No step refuses, a step stops only by the two faults of R107, and with no host access pending the block waits
(R123; that the step then changes nothing is the model's choice, log entry 2). -/
def Obligations.StepsStopOnlyByTheTwoFaults : Prop :=
  (∀ (s : State) (r : Refusal), step s ≠ .refused r) ∧
  (∀ s : State, s.pending = [] → step s = .next s) ∧
  (∀ (i : Instr) (s : State), (∃ t, exec i s = .next t) ∨ (i ∈ crcCommands ∧ exec i s = .fault .unwrittenOperand))
end

