-- ==== Sys2Proof/Laws/Operands.lean ====
section
/-! SUPPORT. What each operand form gives (30_encoding.md R53), and when a message is readable (20_memory.md R41). -/

namespace Sys2Proof.Machine

@[simp] theorem withOperand_value {α : Type} (a : α) (s : State) (k : α → Out) :
    withOperand (.value a) s k = k a := rfl

@[simp] theorem withOperand_error {α : Type} (e : CmdError) (s : State) (k : α → Out) :
    withOperand (.error e) s k = .next (raise e s) := rfl

@[simp] theorem withOperand_unwritten {α : Type} (s : State) (k : α → Out) :
    withOperand .unwritten s k = .fault .unwrittenOperand := rfl

/-- All that going on with an operand can come to when it answers a next state. -/
theorem withOperand_next {α : Type} {o : Operand α} {s t : State} {k : α → Out} (h : withOperand o s k = .next t) :
    (∃ a, o = .value a ∧ k a = .next t) ∨ ∃ e, o = .error e ∧ t = raise e s := by
  cases o with
  | value a => exact .inl ⟨a, rfl, h⟩
  | error e => exact .inr ⟨e, rfl, by simpa using h.symm⟩
  | unwritten => simp at h

theorem widthOperand_valid {s : State} (h : s.opb.toNat ≤ 32) : widthOperand s = .value s.opb.toNat := if_pos h

theorem widthOperand_invalid {s : State} (h : 32 < s.opb.toNat) : widthOperand s = .error .invalidWidth :=
  if_neg (Nat.not_le.2 h)

theorem indexOperand_valid {s : State} (h : s.opa.toNat ≤ 255) :
    indexOperand s = .value (BitVec.ofNat 8 s.opa.toNat) := if_pos h

theorem indexOperand_invalid {s : State} (h : 255 < s.opa.toNat) : indexOperand s = .error .operandRange :=
  if_neg (Nat.not_le.2 h)

/-- `readBytes` gives exactly the written bytes of its range. -/
theorem readBytes_eq_some {mem : Memory Byte} {off n : Nat} {m : List Byte} :
    readBytes mem off n = some m ↔
      m.length = n ∧ ∀ p b, m[p]? = some b → Memory.read mem (off + p) = some b := by
  induction n generalizing off m with
  | zero =>
    constructor
    · intro h
      cases h
      simp
    · rintro ⟨hl, -⟩
      simp [readBytes, List.eq_nil_of_length_eq_zero hl]
  | succ n ih =>
    constructor
    · intro h
      simp only [readBytes] at h
      split at h
      · rename_i b bs hb hbs
        cases h
        obtain ⟨hl, hr⟩ := ih.1 hbs
        refine ⟨by simp [hl], fun p c hp => ?_⟩
        cases p with
        | zero => simpa [hb] using hp
        | succ p => rw [← hr p c (by simpa using hp)]; congr 1; omega
      · cases h
    · rintro ⟨hl, hr⟩
      cases m with
      | nil => simp at hl
      | cons b bs =>
        have hb := hr 0 b rfl
        have hbs : readBytes mem (off + 1) n = some bs := ih.2
          ⟨by simpa using hl, fun p c hp => by rw [← hr (p + 1) c (by simpa using hp)]; congr 1; omega⟩
        simp only [Nat.add_zero] at hb
        simp [readBytes, hb, hbs]

/-- An unwritten byte in the range leaves the message unreadable. -/
theorem readBytes_eq_none {mem : Memory Byte} {off n p : Nat} (hp : p < n) (hu : Memory.read mem (off + p) = none) :
    readBytes mem off n = none := by
  cases h : readBytes mem off n with
  | none => rfl
  | some m =>
    obtain ⟨hl, hr⟩ := readBytes_eq_some.1 h
    have := hr p m[p] (List.getElem?_eq_getElem (hl ▸ hp))
    simp [hu] at this

theorem messageOperand_inRange {s : State} (hr : s.MessageInRange) :
    messageOperand s = match readBytes s.msg s.opa.toNat s.opb.toNat with
      | some m => .value m
      | none => .unwritten := if_pos hr

theorem messageOperand_of {s : State} {m : List Byte} (hr : s.MessageInRange) (hm : s.MessageIs m) :
    messageOperand s = .value m := by
  rw [messageOperand_inRange hr, readBytes_eq_some.2 hm]

theorem messageOperand_range {s : State} (hr : ¬s.MessageInRange) : messageOperand s = .error .operandRange :=
  if_neg hr

theorem messageOperand_unwritten {s : State} {p : Nat} (hr : s.MessageInRange) (hp : p < s.opb.toNat)
    (hu : Memory.read s.msg (s.opa.toNat + p) = none) : messageOperand s = .unwritten := by
  rw [messageOperand_inRange hr, readBytes_eq_none hp hu]

/-- All that the message operand can be. -/
theorem messageOperand_cases (s : State) :
    (∃ m, s.MessageInRange ∧ s.MessageIs m ∧ messageOperand s = .value m) ∨
    (¬s.MessageInRange ∧ messageOperand s = .error .operandRange) ∨
    (s.MessageInRange ∧ readBytes s.msg s.opa.toNat s.opb.toNat = none ∧ messageOperand s = .unwritten) := by
  by_cases hr : s.MessageInRange
  · cases h : readBytes s.msg s.opa.toNat s.opb.toNat with
    | some m =>
      have hm : s.MessageIs m := readBytes_eq_some.1 h
      exact .inl ⟨m, hr, hm, messageOperand_of hr hm⟩
    | none => exact .inr (.inr ⟨hr, rfl, by rw [messageOperand_inRange hr, h]⟩)
  · exact .inr (.inl ⟨hr, messageOperand_range hr⟩)

end Sys2Proof.Machine
end

