-- ==== Sys2Proof/Laws/Engine.lean ====
section
/-! SUPPORT. What the shared steps of a CRC command do (41_bitwise_engines.md R71). -/

namespace Sys2Proof.Machine

/-- The accumulator an engine ends with, from accumulator `a`; none when an update reads an unwritten entry. -/
def foldAcc (upd : Word → Byte → Option Word) (m : List Byte) (a : Word) : Option Word := m.foldlM upd a

@[simp] theorem foldAcc_nil (upd : Word → Byte → Option Word) (a : Word) : foldAcc upd [] a = some a := rfl

@[simp] theorem foldAcc_cons (upd : Word → Byte → Option Word) (b : Byte) (m : List Byte) (a : Word) :
    foldAcc upd (b :: m) a = (upd a b).bind (foldAcc upd m) := rfl

/-- An engine whose updates all succeed is a plain fold. -/
theorem foldAcc_total (f : Word → Byte → Word) (m : List Byte) (a : Word) :
    foldAcc (fun acc b => some (f acc b)) m a = some (m.foldl f a) := by
  induction m generalizing a with
  | nil => rfl
  | cons b m ih => simpa using ih (f a b)

/-- The engine's loop changes `ACC` and nothing else. -/
theorem engineLoop_acc (upd : Word → Byte → Option Word) (m : List Byte) (s : State) (a : Word) :
    engineLoop upd m { s with acc := some a } = (foldAcc upd m a).map fun a' => { s with acc := some a' } := by
  induction m generalizing a with
  | nil => rfl
  | cons b m ih =>
    cases h : upd a b with
    | none => simp [engineLoop, stepAcc, h]
    | some a' => simpa [engineLoop, stepAcc, h] using ih a'

@[simp] theorem deliver_acc (out : Word → Word) (s : State) (a : Word) :
    deliver out { s with acc := some a } = complete (out a) { s with acc := none } := rfl

/-- A CRC command whose message is readable and whose updates succeed completes with the delivered accumulator. -/
theorem crcCommand_completes {upd : Word → Byte → Option Word} {out : Word → Word} {s : State} {m : List Byte} {a : Word}
    (hr : s.MessageInRange) (hm : s.MessageIs m) (ha : foldAcc upd m 0 = some a) :
    crcCommand upd out s = .next (complete (out a) { s with acc := none }) := by
  simp only [crcCommand, messageOperand_of hr hm, withOperand_value, startAcc, engineLoop_acc, ha, Option.map_some,
    deliver_acc]

/-- A CRC command that reads an unwritten table entry faults. -/
theorem crcCommand_entry_unwritten {upd : Word → Byte → Option Word} {out : Word → Word} {s : State} {m : List Byte}
    (hr : s.MessageInRange) (hm : s.MessageIs m) (ha : foldAcc upd m 0 = none) :
    crcCommand upd out s = .fault .unwrittenOperand := by
  simp only [crcCommand, messageOperand_of hr hm, withOperand_value, startAcc, engineLoop_acc, ha, Option.map_none]

/-- A CRC command whose message is out of range raises OperandRange. -/
theorem crcCommand_range {upd : Word → Byte → Option Word} {out : Word → Word} {s : State} (hr : ¬s.MessageInRange) :
    crcCommand upd out s = .next (raise .operandRange s) := by
  simp only [crcCommand, messageOperand_range hr, withOperand_error]

/-- A CRC command over an unwritten message byte faults. -/
theorem crcCommand_byte_unwritten {upd : Word → Byte → Option Word} {out : Word → Word} {s : State} {p : Nat}
    (hr : s.MessageInRange) (hp : p < s.opb.toNat) (hu : Memory.read s.msg (s.opa.toNat + p) = none) :
    crcCommand upd out s = .fault .unwrittenOperand := by
  simp only [crcCommand, messageOperand_unwritten hr hp hu, withOperand_unwritten]

/-- All that a CRC command can come to. -/
theorem crcCommand_cases (upd : Word → Byte → Option Word) (out : Word → Word) (s : State) :
    (∃ m a, s.MessageInRange ∧ s.MessageIs m ∧ foldAcc upd m 0 = some a ∧
      crcCommand upd out s = .next (complete (out a) { s with acc := none })) ∨
    (¬s.MessageInRange ∧ crcCommand upd out s = .next (raise .operandRange s)) ∨
    crcCommand upd out s = .fault .unwrittenOperand := by
  obtain ⟨m, hr, hm, -⟩ | ⟨hr, -⟩ | ⟨-, -, ho⟩ := messageOperand_cases s
  · cases ha : foldAcc upd m 0 with
    | some a => exact .inl ⟨m, a, hr, hm, ha, crcCommand_completes hr hm ha⟩
    | none => exact .inr (.inr (crcCommand_entry_unwritten hr hm ha))
  · exact .inr (.inl ⟨hr, crcCommand_range hr⟩)
  · exact .inr (.inr (by simp only [crcCommand, ho, withOperand_unwritten]))

end Sys2Proof.Machine
end

