-- ==== Sys2Proof/Laws/State.lean ====
section
/-! SUPPORT. One lemma per field and named update: what the update leaves there. No later proof unfolds a record update. -/

namespace Sys2Proof.Machine

@[simp] theorem setErr_cmd (c : BitVec 4) (s : State) : (setErr c s).cmd = s.cmd := rfl
@[simp] theorem setErr_opa (c : BitVec 4) (s : State) : (setErr c s).opa = s.opa := rfl
@[simp] theorem setErr_opb (c : BitVec 4) (s : State) : (setErr c s).opb = s.opb := rfl
@[simp] theorem setErr_result (c : BitVec 4) (s : State) : (setErr c s).result = s.result := rfl
@[simp] theorem setErr_err (c : BitVec 4) (s : State) : (setErr c s).err = c := rfl
@[simp] theorem setErr_acc (c : BitVec 4) (s : State) : (setErr c s).acc = s.acc := rfl
@[simp] theorem setErr_utab (c : BitVec 4) (s : State) : (setErr c s).utab = s.utab := rfl
@[simp] theorem setErr_msg (c : BitVec 4) (s : State) : (setErr c s).msg = s.msg := rfl
@[simp] theorem setErr_msgBytes (c : BitVec 4) (s : State) : (setErr c s).msgBytes = s.msgBytes := rfl
@[simp] theorem setErr_pending (c : BitVec 4) (s : State) : (setErr c s).pending = s.pending := rfl
@[simp] theorem setErr_readData (c : BitVec 4) (s : State) : (setErr c s).readData = s.readData := rfl

@[simp] theorem raise_cmd (e : CmdError) (s : State) : (raise e s).cmd = s.cmd := rfl
@[simp] theorem raise_opa (e : CmdError) (s : State) : (raise e s).opa = s.opa := rfl
@[simp] theorem raise_opb (e : CmdError) (s : State) : (raise e s).opb = s.opb := rfl
@[simp] theorem raise_result (e : CmdError) (s : State) : (raise e s).result = s.result := rfl
@[simp] theorem raise_err (e : CmdError) (s : State) : (raise e s).err = errorCode e := rfl
@[simp] theorem raise_acc (e : CmdError) (s : State) : (raise e s).acc = s.acc := rfl
@[simp] theorem raise_utab (e : CmdError) (s : State) : (raise e s).utab = s.utab := rfl
@[simp] theorem raise_msg (e : CmdError) (s : State) : (raise e s).msg = s.msg := rfl
@[simp] theorem raise_msgBytes (e : CmdError) (s : State) : (raise e s).msgBytes = s.msgBytes := rfl
@[simp] theorem raise_pending (e : CmdError) (s : State) : (raise e s).pending = s.pending := rfl
@[simp] theorem raise_readData (e : CmdError) (s : State) : (raise e s).readData = s.readData := rfl

@[simp] theorem complete_cmd (v : Word) (s : State) : (complete v s).cmd = s.cmd := rfl
@[simp] theorem complete_opa (v : Word) (s : State) : (complete v s).opa = s.opa := rfl
@[simp] theorem complete_opb (v : Word) (s : State) : (complete v s).opb = s.opb := rfl
@[simp] theorem complete_result (v : Word) (s : State) : (complete v s).result = v := rfl
@[simp] theorem complete_err (v : Word) (s : State) : (complete v s).err = 0 := rfl
@[simp] theorem complete_acc (v : Word) (s : State) : (complete v s).acc = s.acc := rfl
@[simp] theorem complete_utab (v : Word) (s : State) : (complete v s).utab = s.utab := rfl
@[simp] theorem complete_msg (v : Word) (s : State) : (complete v s).msg = s.msg := rfl
@[simp] theorem complete_msgBytes (v : Word) (s : State) : (complete v s).msgBytes = s.msgBytes := rfl
@[simp] theorem complete_pending (v : Word) (s : State) : (complete v s).pending = s.pending := rfl
@[simp] theorem complete_readData (v : Word) (s : State) : (complete v s).readData = s.readData := rfl

@[simp] theorem startAcc_acc (s : State) : (startAcc s).acc = some 0 := rfl

@[simp] theorem answer_cmd (v : Word) (s : State) : (answer v s).cmd = s.cmd := rfl
@[simp] theorem answer_opa (v : Word) (s : State) : (answer v s).opa = s.opa := rfl
@[simp] theorem answer_opb (v : Word) (s : State) : (answer v s).opb = s.opb := rfl
@[simp] theorem answer_result (v : Word) (s : State) : (answer v s).result = s.result := rfl
@[simp] theorem answer_err (v : Word) (s : State) : (answer v s).err = s.err := rfl
@[simp] theorem answer_acc (v : Word) (s : State) : (answer v s).acc = s.acc := rfl
@[simp] theorem answer_utab (v : Word) (s : State) : (answer v s).utab = s.utab := rfl
@[simp] theorem answer_msg (v : Word) (s : State) : (answer v s).msg = s.msg := rfl
@[simp] theorem answer_msgBytes (v : Word) (s : State) : (answer v s).msgBytes = s.msgBytes := rfl
@[simp] theorem answer_pending (v : Word) (s : State) : (answer v s).pending = s.pending := rfl
@[simp] theorem answer_readData (v : Word) (s : State) : (answer v s).readData = some v := rfl

@[simp] theorem platformReset_pending (s : State) : (platformReset s).pending = s.pending := rfl
@[simp] theorem platformReset_msgBytes (s : State) : (platformReset s).msgBytes = s.msgBytes := rfl

@[simp] theorem issueCommand_pending (n w : Nat) (s : State) :
    (issueCommand n w s).pending = .access (.write 0 .word (BitVec.ofNat 32 (w % 2 ^ n))) :: s.pending := rfl

end Sys2Proof.Machine
end

