-- ==== Sys2Proof/Laws/HostPort.lean ====
section
/-! SUPPORT. What the address map and the host port do (20_memory.md R32-R38): one lemma per kind of target, and the step for
each kind of transaction. -/

namespace Sys2Proof.Machine

@[simp] theorem target_cmd (n : Nat) : target n 0x0#32 .word = .register .cmd := rfl
@[simp] theorem target_opa (n : Nat) : target n 0x4#32 .word = .register .opa := rfl
@[simp] theorem target_opb (n : Nat) : target n 0x8#32 .word = .register .opb := rfl
@[simp] theorem target_result (n : Nat) : target n 0xC#32 .word = .register .result := rfl
@[simp] theorem target_status (n : Nat) : target n 0x10#32 .word = .register .status := rfl

/-- Reserved words (R32, R36). -/
theorem target_reserved {n : Nat} {addr : Word} (ha : addr.toNat % 4 = 0)
    (h : (0x14 ≤ addr.toNat ∧ addr.toNat < 0x400) ∨ (0x800 ≤ addr.toNat ∧ addr.toNat < 0x10000)) :
    target n addr .word = .reserved := by
  rcases h with ⟨h1, h2⟩ | ⟨h1, h2⟩
  · have hr : registerAt addr.toNat = .reserved := by
      unfold registerAt
      repeat rw [if_neg (by omega)]
    simp [target, h2, wordAligned, ha, hr]
  · rw [target, if_neg (by omega), if_neg (by omega), if_pos h2]
    simp [wordAligned, ha]

/-- Table entries (R32, R35). -/
theorem target_utab {n i : Nat} {addr : Word} (hi : i < 256) (ha : addr.toNat = 0x400 + 4 * i) :
    target n addr .word = .utab i := by
  rw [target, if_neg (by omega), if_pos (by omega), ha]
  have h4 : (0x400 + 4 * i) % 4 = 0 := by omega
  simp [wordAligned, h4]

/-- Message bytes (R32, R34). -/
theorem target_msg {n a : Nat} {addr : Word} (hn : a < n) (ha : addr.toNat = 0x10000 + a) :
    target n addr .byte = .msg a := by
  rw [target, if_neg (by omega), if_neg (by omega), if_neg (by omega), if_pos (by omega), ha]
  simp [byteWide]

/-- A word of the register range is one of the five registers or reserved. -/
theorem registerAt_cases (a : Nat) :
    (∃ r : HostReg, a = r.offset.toNat ∧ registerAt a = .register r) ∨
    ((∀ r : HostReg, a ≠ r.offset.toNat) ∧ registerAt a = .reserved) := by
  by_cases h : ∃ r : HostReg, a = r.offset.toNat
  · obtain ⟨r, rfl⟩ := h
    exact .inl ⟨r, rfl, by cases r <;> rfl⟩
  · have hr : ∀ r : HostReg, a ≠ r.offset.toNat := fun r e => h ⟨r, e⟩
    refine .inr ⟨hr, ?_⟩
    have h1 : a ≠ 0x0 := hr .cmd
    have h2 : a ≠ 0x4 := hr .opa
    have h3 : a ≠ 0x8 := hr .opb
    have h4 : a ≠ 0xC := hr .result
    have h5 : a ≠ 0x10 := hr .status
    simp only [registerAt, if_neg h1, if_neg h2, if_neg h3, if_neg h4, if_neg h5]

/-- All that a host access can reach, with what that says about the access. -/
theorem target_cases (n : Nat) (addr : Word) (w : Width) :
    (∃ r : HostReg, addr = r.offset ∧ w = .word ∧ target n addr w = .register r) ∨
    (addr.toNat < 0x10000 ∧ w = .word ∧ addr.toNat % 4 = 0 ∧ (∀ r : HostReg, addr ≠ r.offset) ∧
      target n addr w = .reserved) ∨
    (∃ i, i < 256 ∧ addr.toNat = 0x400 + 4 * i ∧ w = .word ∧ target n addr w = .utab i) ∨
    (∃ a, a < n ∧ addr.toNat = 0x10000 + a ∧ w = .byte ∧ target n addr w = .msg a) ∨
    (¬(addr.toNat < 0x10000 ∧ w = .word ∧ addr.toNat % 4 = 0) ∧
      ¬(0x10000 ≤ addr.toNat ∧ addr.toNat < 0x10000 + n ∧ w = .byte) ∧ target n addr w = .busError) := by
  have hoff : ∀ r : HostReg, r.offset.toNat < 0x400 := by intro r; cases r <;> decide
  by_cases hlow : addr.toNat < 0x10000
  · by_cases hal : w = .word ∧ addr.toNat % 4 = 0
    · obtain ⟨rfl, hal⟩ := hal
      by_cases h1 : addr.toNat < 0x400
      · have ht : target n addr .word = registerAt addr.toNat := by simp [target, h1, wordAligned, hal]
        obtain ⟨r, hr, he⟩ | ⟨hr, he⟩ := registerAt_cases addr.toNat
        · exact .inl ⟨r, BitVec.eq_of_toNat_eq hr, rfl, ht.trans he⟩
        · exact .inr (.inl ⟨hlow, rfl, hal, fun r e => hr r (congrArg BitVec.toNat e), ht.trans he⟩)
      · by_cases h2 : addr.toNat < 0x800
        · have ha : addr.toNat = 0x400 + 4 * ((addr.toNat - 0x400) / 4) := by omega
          exact .inr (.inr (.inl ⟨_, by omega, ha, rfl, target_utab (by omega) ha⟩))
        · refine .inr (.inl ⟨hlow, rfl, hal, fun r e => ?_, target_reserved hal (.inr ⟨by omega, hlow⟩)⟩)
          have := hoff r
          rw [← e] at this
          exact h1 this
    · have hw : wordAligned addr.toNat w = false := by
        cases w
        · rfl
        · rfl
        · simpa [wordAligned] using hal
      refine .inr (.inr (.inr (.inr ⟨fun h => hal h.2, fun h => by omega, ?_⟩)))
      simp [target, hw, hlow]
  · by_cases hin : addr.toNat < 0x10000 + n ∧ w = .byte
    · obtain ⟨hn, rfl⟩ := hin
      have ha : addr.toNat = 0x10000 + (addr.toNat - 0x10000) := by omega
      exact .inr (.inr (.inr (.inl ⟨_, by omega, ha, rfl, target_msg (by omega) ha⟩)))
    · refine .inr (.inr (.inr (.inr ⟨fun h => hlow h.1, fun h => hin h.2, ?_⟩)))
      rw [target, if_neg (by omega), if_neg (by omega), if_neg hlow]
      split
      · rename_i hn
        have : byteWide w = false := by
          cases w
          · exact absurd ⟨hn, rfl⟩ hin
          · rfl
          · rfl
        simp [this]
      · rfl

/-- The step of a read transaction. -/
theorem step_read {s : State} {addr : Word} {w : Width} {rest : List HostEvent}
    (h : s.pending = .access (.read addr w) :: rest) :
    step s = hostRead addr w { s with pending := rest, readData := none } := by
  simp only [step, takeEvent, h, hostEvent]

/-- The step of a write transaction. -/
theorem step_write {s : State} {addr : Word} {w : Width} {v : Word} {rest : List HostEvent}
    (h : s.pending = .access (.write addr w v) :: rest) :
    step s = hostWrite addr w v { s with pending := rest, readData := none } := by
  simp only [step, takeEvent, h, hostEvent]

/-- The step of a reset. -/
theorem step_reset {s : State} {rest : List HostEvent} (h : s.pending = .reset :: rest) :
    step s = .next (platformReset { s with pending := rest, readData := none }) := by
  simp only [step, takeEvent, h, hostEvent]

/-- With nothing pending the block waits. -/
theorem step_idle {s : State} (h : s.pending = []) : step s = .next s := by
  simp only [step, takeEvent, h]

/-- A write to `CMD` runs the command. -/
theorem step_command {s : State} {c : Word} {rest : List HostEvent}
    (h : s.pending = .access (.write 0x0#32 .word c) :: rest) :
    step s = runCommand c { s with pending := rest, readData := none } := by
  simp only [step_write h, hostWrite, target_cmd, writeReg]

end Sys2Proof.Machine
end

