-- ==== Sys2Proof/Laws/Memory.lean ====
section
/-! SUPPORT. The laws of a buffer: a read after a write, the canonical form kept by a write, equal contents are equal data. -/

namespace Sys2Proof.Machine.Memory

variable {α : Type}

@[simp] theorem read_nil (a : Nat) : read ([] : Memory α) a = none := rfl

@[simp] theorem read_cons (c : Nat × α) (m : Memory α) (a : Nat) :
    read (c :: m) a = if a = c.1 then some c.2 else read m a := rfl

theorem wf_cons (c : Nat × α) (m : Memory α) :
    wf (c :: m) = true ↔ (∀ d ∈ m, c.1 < d.1) ∧ wf m = true := by
  simp [wf]

/-- Everything a write does, through the read of one location. -/
theorem read_write (m : Memory α) (a : Nat) (v : α) (b : Nat) :
    read (write m a v) b = if b = a then some v else read m b := by
  induction m with
  | nil => rfl
  | cons c m ih =>
    simp only [write]
    split
    · simp
    · split
      · simp only [read_cons]; split <;> simp_all
      · rename_i hne
        simp only [read_cons, ih]
        by_cases hb : b = c.1
        · simp [hb, Ne.symm hne]
        · simp [hb]

theorem read_write_same (m : Memory α) (a : Nat) (v : α) : read (write m a v) a = some v := by
  simp [read_write]

theorem read_write_other (m : Memory α) {a b : Nat} (v : α) (h : b ≠ a) :
    read (write m a v) b = read m b := by
  simp [read_write, h]

/-- The keys of a written buffer are the old ones and the written one. -/
theorem mem_write {m : Memory α} {a : Nat} {v : α} {c : Nat × α} (h : c ∈ write m a v) :
    c = (a, v) ∨ c ∈ m := by
  induction m with
  | nil => simpa [write] using h
  | cons d m ih =>
    simp only [write] at h
    split at h
    · simpa using h
    · split at h
      · rcases List.mem_cons.1 h with h | h
        · exact .inl h
        · exact .inr (List.mem_cons_of_mem _ h)
      · rcases List.mem_cons.1 h with h | h
        · exact .inr (h ▸ List.mem_cons_self)
        · exact (ih h).imp_right (List.mem_cons_of_mem _)

/-- A write keeps the canonical form. -/
theorem write_wf {m : Memory α} (h : wf m = true) (a : Nat) (v : α) : wf (write m a v) = true := by
  induction m with
  | nil => simp [write, wf]
  | cons c m ih =>
    obtain ⟨hc, hm⟩ := (wf_cons c m).1 h
    simp only [write]
    split
    · rename_i hlt
      refine (wf_cons _ _).2 ⟨fun d hd => ?_, h⟩
      rcases List.mem_cons.1 hd with rfl | hd
      · exact hlt
      · exact Nat.lt_trans hlt (hc d hd)
    · split
      · rename_i heq
        exact (wf_cons _ _).2 ⟨fun d hd => heq ▸ hc d hd, hm⟩
      · rename_i hlt hne
        refine (wf_cons _ _).2 ⟨fun d hd => ?_, ih hm⟩
        rcases mem_write hd with rfl | hd
        · exact Nat.lt_of_le_of_ne (Nat.le_of_not_lt hlt) (Ne.symm hne)
        · exact hc d hd

/-- A write below the bound keeps the bound. -/
theorem write_below {m : Memory α} {n a : Nat} (h : below n m = true) (ha : a < n) (v : α) :
    below n (write m a v) = true := by
  simp only [below, List.all_eq_true, decide_eq_true_eq] at h ⊢
  intro c hc
  rcases mem_write hc with rfl | hc
  · exact ha
  · exact h c hc

theorem read_none_of_lt {m : Memory α} {a : Nat} (h : ∀ d ∈ m, a < d.1) : read m a = none := by
  induction m with
  | nil => rfl
  | cons c m ih =>
    have := h c List.mem_cons_self
    simp [Nat.ne_of_lt this, ih fun d hd => h d (List.mem_cons_of_mem _ hd)]

/-- Equal contents are equal data: two buffers in canonical form that read the same everywhere are one list. -/
theorem eq_of_read_eq {m m' : Memory α} (h : wf m = true) (h' : wf m' = true)
    (hr : ∀ a, read m a = read m' a) : m = m' := by
  induction m generalizing m' with
  | nil =>
    cases m' with
    | nil => rfl
    | cons c' m' => simpa using hr c'.1
  | cons c m ih =>
    obtain ⟨hc, hm⟩ := (wf_cons c m).1 h
    cases m' with
    | nil => simpa using hr c.1
    | cons c' m' =>
      obtain ⟨hc', hm'⟩ := (wf_cons c' m').1 h'
      have key : c.1 = c'.1 := by
        rcases Nat.lt_trichotomy c.1 c'.1 with hlt | heq | hlt
        · have := hr c.1
          rw [read_cons, if_pos rfl, read_none_of_lt] at this
          · cases this
          · intro d hd
            rcases List.mem_cons.1 hd with rfl | hd
            · exact hlt
            · exact Nat.lt_trans hlt (hc' d hd)
        · exact heq
        · have := hr c'.1
          rw [read_cons (c := c'), if_pos rfl, read_none_of_lt] at this
          · cases this
          · intro d hd
            rcases List.mem_cons.1 hd with rfl | hd
            · exact hlt
            · exact Nat.lt_trans hlt (hc d hd)
      have val : c.2 = c'.2 := by simpa [key] using hr c.1
      have tail : m = m' := ih hm hm' fun a => by
        by_cases ha : a = c.1
        · subst ha
          rw [read_none_of_lt hc, read_none_of_lt (key ▸ hc')]
        · simpa [ha, key ▸ ha] using hr a
      rw [tail, Prod.ext key val]

end Sys2Proof.Machine.Memory
end

