-- ==== Sys2Proof/Laws/PerInstr.lean ====
section
/-! SUPPORT. Statements made per instruction: the fields of every command word are legal (30_encoding.md R50-R52). -/

namespace Sys2Proof.Laws.EncodesLegalFields

/-- The word of the instruction holds legal fields, the ones the opcode table gives it. -/
def Statement (i : Instr) : Prop := (fieldsOf (encode i)).wf = true ∧ fieldsOf (encode i) = i.fields

theorem reflect : Statement .reflect := ⟨by decide, by decide⟩
theorem bwmsb : Statement .bwmsb := ⟨by decide, by decide⟩
theorem tbmsb : Statement .tbmsb := ⟨by decide, by decide⟩
theorem bwlsb : Statement .bwlsb := ⟨by decide, by decide⟩
theorem tblsb : Statement .tblsb := ⟨by decide, by decide⟩
theorem tgenmsb : Statement .tgenmsb := ⟨by decide, by decide⟩
theorem tgenlsb : Statement .tgenlsb := ⟨by decide, by decide⟩
theorem trdmsb : Statement .trdmsb := ⟨by decide, by decide⟩
theorem trdlsb : Statement .trdlsb := ⟨by decide, by decide⟩
theorem polymsb : Statement .polymsb := ⟨by decide, by decide⟩
theorem polylsb : Statement .polylsb := ⟨by decide, by decide⟩
theorem tbmsbU : Statement .tbmsbU := ⟨by decide, by decide⟩
theorem tblsbU : Statement .tblsbU := ⟨by decide, by decide⟩

end Sys2Proof.Laws.EncodesLegalFields
end

