-- ==== Sys2Proof/Tests/Slice0.lean ====
section
/-! SUPPORT. Tests with results from 95_test_vectors.md, the WellFormed smoke test, decoding of words written out from
30_encoding.md, and for each statement with hypotheses concrete states that meet them. -/

namespace Sys2Proof.Tests

open Sys2Proof Sys2Proof.Machine Sys2Proof.Claims

/-! ## Small states and projections -/

/-- The cells of a buffer that holds `m` from offset `k` on. -/
def cells : Nat → List Byte → Memory Byte
  | _, [] => []
  | k, b :: m => (k, b) :: cells (k + 1) m

/-- A caller table with every entry written. -/
def table (t : Byte → Word) : Memory Word := (List.range 256).map fun i => (i, t (BitVec.ofNat 8 i))

/-- A table with every entry written reads as its function. -/
theorem read_range' {α : Type} (f : Nat → α) (n k j : Nat) (hk : k ≤ j) (hj : j < k + n) :
    Memory.read ((List.range' k n).map fun i => (i, f i)) j = some (f j) := by
  induction n generalizing k with
  | zero => omega
  | succ n ih =>
    rw [List.range'_succ, List.map_cons, Memory.read]
    by_cases h : j = k
    · rw [if_pos h, h]
    · rw [if_neg h, ih (k + 1) (by omega) (by omega)]

theorem read_table (t : Byte → Word) (j : Nat) (h : j < 256) : Memory.read (table t) j = some (t (BitVec.ofNat 8 j)) := by
  rw [table, List.range_eq_range']
  exact read_range' (fun i => t (BitVec.ofNat 8 i)) 256 0 j (Nat.zero_le j) (by omega)

/-- After reset, with 16 bytes of buffer (as V-ER-5 to V-ER-10), an old result, and operands. -/
def st (opa opb : Word) : State := { State.resetWith 16 with result := 0xCAFE0001, opa := opa, opb := opb }

/-- The message `m` at the very end of the buffer. -/
def withMsg (m : List Byte) : State :=
  { st (BitVec.ofNat 32 (16 - m.length)) (BitVec.ofNat 32 m.length) with msg := cells (16 - m.length) m }

/-- The message `m` and the caller table `t`. -/
def withTable (t : Byte → Word) (m : List Byte) : State := { withMsg m with utab := table t }

/-- The host's next event. -/
def host (e : HostEvent) : State := { st 0 0 with pending := [e] }

/-- `RESULT` and `ERR` of a next state. -/
def out : Out → Option (Word × BitVec 4)
  | .next t => some (t.result, t.err)
  | .fault _ => none
  | .refused _ => none

/-- The bus answer of a next state. -/
def busOf : Out → Option (Option Word)
  | .next t => some t.readData
  | .fault _ => none
  | .refused _ => none

/-- The fault of a stop. -/
def faultOf : Out → Option Fault
  | .next _ => none
  | .fault r => some r
  | .refused _ => none

/-! ## WellFormed refuses ill-formed terms -/

theorem test_wf_reserved_bit : ({ op := 0x2, ut := false, reserved := 1 } : CmdFields).wf = false := by decide
theorem test_wf_op_zero : ({ op := 0x0, ut := false, reserved := 0 } : CmdFields).wf = false := by decide
theorem test_wf_op_high : ({ op := 0xC, ut := false, reserved := 0 } : CmdFields).wf = false := by decide
theorem test_wf_ut_with_bwmsb : ({ op := 0x2, ut := true, reserved := 0 } : CmdFields).wf = false := by decide
theorem test_wf_accepts : ({ op := 0x5, ut := true, reserved := 0 } : CmdFields).wf = true := by decide
theorem test_wf_wr_read_only : (Stmt.wr .result 0).wf 16 = false ∧ (Stmt.wr .status 0).wf 16 = false := by decide
theorem test_wf_message_offset : (Stmt.wrb 16 0).wf 16 = false ∧ (Stmt.rdb 16).wf 16 = false := by decide
theorem test_wf_table_index : (Stmt.wrt 256 0).wf 16 = false ∧ (Stmt.rdt 256).wf 16 = false := by decide
theorem test_wf_accepts_stmts :
    (Stmt.wr .cmd 0).wf 16 = true ∧ (Stmt.rd .status).wf 16 = true ∧ (Stmt.wrb 15 0).wf 16 = true ∧
    (Stmt.rdb 15).wf 16 = true ∧ (Stmt.wrt 255 0).wf 16 = true ∧ (Stmt.rdt 255).wf 16 = true := by decide

/-! ## Decoding of words laid out field by field: reserved [31:5], UT [4], OP [3:0] (R49 to R51) -/

theorem test_decode_reflect : decode 0b000000000000000000000000000_0_0001 = .instr .reflect := by decide
theorem test_decode_bwmsb : decode 0b000000000000000000000000000_0_0010 = .instr .bwmsb := by decide
theorem test_decode_tbmsb : decode 0b000000000000000000000000000_0_0011 = .instr .tbmsb := by decide
theorem test_decode_bwlsb : decode 0b000000000000000000000000000_0_0100 = .instr .bwlsb := by decide
theorem test_decode_tblsb : decode 0b000000000000000000000000000_0_0101 = .instr .tblsb := by decide
theorem test_decode_tgenmsb : decode 0b000000000000000000000000000_0_0110 = .instr .tgenmsb := by decide
theorem test_decode_tgenlsb : decode 0b000000000000000000000000000_0_0111 = .instr .tgenlsb := by decide
theorem test_decode_trdmsb : decode 0b000000000000000000000000000_0_1000 = .instr .trdmsb := by decide
theorem test_decode_trdlsb : decode 0b000000000000000000000000000_0_1001 = .instr .trdlsb := by decide
theorem test_decode_polymsb : decode 0b000000000000000000000000000_0_1010 = .instr .polymsb := by decide
theorem test_decode_polylsb : decode 0b000000000000000000000000000_0_1011 = .instr .polylsb := by decide
theorem test_decode_tbmsbU : decode 0b000000000000000000000000000_1_0011 = .instr .tbmsbU := by decide
theorem test_decode_tblsbU : decode 0b000000000000000000000000000_1_0101 = .instr .tblsbU := by decide

/-- V-ER-1, V-ER-2: reserved `OP` values. -/
theorem test_decode_reserved_op :
    [0x0, 0xC, 0xD, 0xE, 0xF].map decode = List.replicate 5 (.illegal .reservedOp) := by decide

/-- V-ER-3: `UT` with another `OP`. -/
theorem test_decode_ut :
    [0x11, 0x12, 0x14, 0x16, 0x1B].map decode = List.replicate 5 (.illegal .utNotAllowed) := by decide

/-- V-ER-4: reserved bits. -/
theorem test_decode_reserved_bits :
    [0x20, 0x80000002].map decode = List.replicate 2 (.illegal .reservedBits) := by decide

/-! ## Commands, at most two tests each (95_test_vectors.md section 2) -/

/-- V-RF-13. -/
theorem test_reflect_odd_width : out (exec .reflect (st 0x12345678 31)) = some (0x0F351624, 0) := by decide +kernel
/-- V-RF-18: the old result stays. -/
theorem test_reflect_invalid_width : out (exec .reflect (st 0x741B8CD7 33)) = some (0xCAFE0001, 1) := by decide +kernel
/-- V-PC-1. -/
theorem test_polymsb : out (exec .polymsb (st 7 9)) = some (0x741B8CD7, 0) := by decide +kernel
/-- V-PC-2. -/
theorem test_polylsb : out (exec .polylsb (st 7 9)) = some (0xEB31D82E, 0) := by decide +kernel
/-- V-BW-15. -/
theorem test_bwmsb : out (exec .bwmsb (withMsg [0xDE, 0xAD, 0xBE, 0xEF])) = some (0x469F4202, 0) := by decide +kernel
/-- V-ER-10: the range comes before the unwritten bytes. -/
theorem test_bwmsb_range : out (exec .bwmsb (st 20 1)) = some (0xCAFE0001, 3) := by decide +kernel
/-- V-BW-15. -/
theorem test_bwlsb : out (exec .bwlsb (withMsg [0xDE, 0xAD, 0xBE, 0xEF])) = some (0x943BBA83, 0) := by decide +kernel
/-- V-BW-8: a trailing zero byte matters. -/
theorem test_bwlsb_trailing_zero : out (exec .bwlsb (withMsg [0x01, 0x00])) = some (0x55F80924, 0) := by decide +kernel
/-- V-BW-16, V-TB-1. -/
theorem test_tbmsb : out (exec .tbmsb (withMsg [1, 2, 3, 4])) = some (0xE97224B8, 0) := by decide +kernel
/-- V-ER-7 (for `TBMSB`, R106): the sum does not wrap. -/
theorem test_tbmsb_no_wrap : out (exec .tbmsb (st 0xFFFFFFFF 2)) = some (0xCAFE0001, 3) := by decide +kernel
/-- V-BW-16, V-TB-2. -/
theorem test_tblsb : out (exec .tblsb (withMsg [1, 2, 3, 4])) = some (0x65ADD6C1, 0) := by decide +kernel
/-- V-ER-6 (for `TBLSB`, R41): the empty message at the end of the buffer. -/
theorem test_tblsb_empty : out (exec .tblsb (st 16 0)) = some (0, 0) := by decide +kernel
/-- V-TB-9. -/
theorem test_tbmsbU : out (exec .tbmsbU (withTable (BitVec.setWidth 32) [1, 2])) = some (0x00000102, 0) := by
  decide +kernel
/-- V-TB-13. -/
theorem test_tbmsbU_unwritten : faultOf (exec .tbmsbU (withMsg [1])) = some .unwrittenOperand := by decide +kernel
/-- V-TB-10. -/
theorem test_tblsbU : out (exec .tblsbU (withTable (BitVec.setWidth 32) [1, 2])) = some (0xC0000000, 0) := by
  decide +kernel
/-- V-TB-8. -/
theorem test_tblsbU_one_entry : out (exec .tblsbU (withTable oneEntry [0xFF, 0x00])) = some (0x7DB57B00, 0) := by
  decide +kernel
/-- V-TG-10. -/
theorem test_tgenmsb : out (exec .tgenmsb (st 0x55 0)) = some (0x3A13C601, 0) := by decide +kernel
/-- V-TG-14. -/
theorem test_tgenmsb_range : out (exec .tgenmsb (st 0x100 0)) = some (0xCAFE0001, 3) := by decide +kernel
/-- V-TG-11. -/
theorem test_tgenlsb : out (exec .tgenlsb (st 0xAA 0)) = some (0x8063C85C, 0) := by decide +kernel
/-- V-TG-15. -/
theorem test_tgenlsb_range : out (exec .tgenlsb (st 0xFFFFFFFF 0)) = some (0xCAFE0001, 3) := by decide +kernel
/-- V-TG-12. -/
theorem test_trdmsb : out (exec .trdmsb (st 0x7F 0)) = some (0x1D17E36A, 0) := by decide +kernel
/-- V-TG-10. -/
theorem test_trdlsb : out (exec .trdlsb (st 0x55 0)) = some (0x4031E42E, 0) := by decide +kernel

/-! ## Host accesses and reset (95_test_vectors.md sections 2.6 to 2.8) -/

/-- V-ER-9. -/
theorem test_unwritten_message : faultOf (runCommand 0x2 (st 0 1)) = some .unwrittenOperand := by decide +kernel
/-- V-HA-1. -/
theorem test_byte_read_of_result :
    faultOf (step (host (.access (.read 0x0C .byte)))) = some .hostBusError := by decide
/-- V-HA-2. -/
theorem test_read_reserved : busOf (step (host (.access (.read 0x20 .word)))) = some (some 0) := by decide
/-- V-HA-3. -/
theorem test_write_result_ignored :
    out (step (host (.access (.write 0x0C .word 0x12345678)))) = some (0xCAFE0001, 0) := by decide
/-- V-HA-4. -/
theorem test_word_write_to_msg :
    faultOf (step (host (.access (.write 0x10000 .word 0)))) = some .hostBusError := by decide
/-- V-HA-5. -/
theorem test_misaligned_utab : faultOf (step (host (.access (.read 0x402 .word)))) = some .hostBusError := by decide
/-- V-HA-6, with 16 bytes of buffer. -/
theorem test_unmapped : faultOf (step (host (.access (.write 0x10010 .byte 0xAB)))) = some .hostBusError := by decide
/-- V-HA-7. -/
theorem test_polymsb_by_host :
    out (step (host (.access (.write 0x0 .word 0xA)))) = some (0x741B8CD7, 0) := by decide +kernel
/-- V-RS-1, for `RESULT`. -/
theorem test_reset_result :
    busOf (step { State.resetWith 16 with pending := [.access (.read 0x0C .word)] }) = some (some 0) := by decide
/-- V-RS-3, from `State.reset` through `withFetchWord` (index 0 there: V-TG-1). -/
theorem test_tables_valid_after_reset : out (step (State.reset.withFetchWord 32 0x8)) = some (0, 0) := by decide +kernel
/-- V-RS-2. -/
theorem test_crc_after_reset : out (step (State.reset.withFetchWord 32 0x2)) = some (0, 0) := by decide +kernel
/-- V-RS-4. -/
theorem test_read_unwritten :
    faultOf (step (host (.access (.read 0x10000 .byte)))) = some .unwrittenOperand := by decide

/-! ## Witnesses: for every statement with hypotheses, concrete values that meet them together, at the ends of the ranges -/

/-- The host's next transaction, then nothing. -/
def hostOn (s : State) (e : HostAccess) : State := { s with pending := [.access e] }

/-- Every buffer location of the small machine written, and a message at the end of the buffer. -/
def full : State := { withTable (tabRead tblMsb) [0x12, 0x34] with msg := cells 0 (bytesFrom0 16) }

theorem witness_ExactlyThirteenWordsAreLegal :
    0x0 ∉ opcodeTable.map Prod.fst ∧ 0xC ∉ opcodeTable.map Prod.fst ∧ 0x12 ∉ opcodeTable.map Prod.fst ∧
    0x20 ∉ opcodeTable.map Prod.fst ∧ 0xFFFFFFFF ∉ opcodeTable.map Prod.fst := by decide

theorem witness_IllegalWordRaisesIllegalCommand_reserved :
    IllegalWord 0x22 ∧ NextIsWrite (hostOn full (.write 0x0 .word 0x22)) 0x0 .word 0x22 [] :=
  ⟨.inl (by decide), rfl⟩
theorem witness_IllegalWordRaisesIllegalCommand_op :
    IllegalWord 0x0 ∧ IllegalWord 0xC ∧ NextIsWrite (hostOn full (.write 0x0 .word 0xC)) 0x0 .word 0xC [] :=
  ⟨.inr (.inl (by decide)), .inr (.inr (.inl (by decide))), rfl⟩
theorem witness_IllegalWordRaisesIllegalCommand_ut :
    IllegalWord 0x12 ∧ NextIsWrite (hostOn full (.write 0x0 .word 0x12)) 0x0 .word 0x12 [] :=
  ⟨.inr (.inr (.inr ⟨by decide, by decide, by decide⟩)), rfl⟩

theorem witness_ReflectionReversesTheLowBits : (32 : Nat) ≤ 32 ∧ (31 : Nat) < 32 ∧ (0 : Nat) ≤ 32 ∧ (0 : Nat) ≤ 31 := by decide
theorem witness_ReflectionLaws : (31 : Nat) ≤ 32 ∧ (0x7FFFFFFF : Word).toNat < 2 ^ 31 ∧ (31 : Nat) < 32 := by decide +kernel

theorem witness_ReflectResult_width : (st 0xA5 32).opb.toNat ≤ 32 ∧ 32 < (st 0xA5 33).opb.toNat := by decide
theorem witness_ReflectResult_ignored_bits :
    (8 : Nat) ≤ 32 ∧ (0xFFFFFF01 : Word).toNat % 2 ^ 8 = (0x01 : Word).toNat % 2 ^ 8 := by decide
theorem witness_ReflectResult_palindrome : (8 : Nat) ≤ 32 ∧ (0xA5 : Word).toNat < 2 ^ 8 ∧
    ∀ j, j < 8 → (0xA5 : Word).getLsbD j = (0xA5 : Word).getLsbD (8 - 1 - j) := by decide

/-- A message that ends with the buffer. -/
theorem messageIs_full : full.MessageIs [0x0E, 0x0F] := readBytes_eq_some.1 (by decide +kernel)
theorem inRange_full : full.MessageInRange := by unfold State.MessageInRange; decide +kernel

theorem witness_BitwiseMsbResult : full.MessageInRange ∧ full.MessageIs [0x0E, 0x0F] ∧ ¬(st 15 2).MessageInRange :=
  ⟨inRange_full, messageIs_full, by unfold State.MessageInRange; decide⟩
theorem witness_BitwiseLsbResult : full.MessageInRange ∧ full.MessageIs [0x0E, 0x0F] ∧ ¬(st 17 0).MessageInRange :=
  ⟨inRange_full, messageIs_full, by unfold State.MessageInRange; decide⟩
theorem witness_TableMsbResult : (st 16 0).MessageInRange ∧ (st 16 0).MessageIs [] ∧ ¬(st 0xFFFFFFFF 2).MessageInRange :=
  ⟨by unfold State.MessageInRange; decide, readBytes_eq_some.1 rfl, by unfold State.MessageInRange; decide⟩
theorem witness_TableLsbResult : full.MessageInRange ∧ full.MessageIs [0x0E, 0x0F] ∧ ¬(st 15 2).MessageInRange :=
  witness_BitwiseMsbResult

theorem witness_CrcIsLinear : ([0x01, 0x00] : List Byte).length = ([0x00, 0x01] : List Byte).length := rfl
theorem witness_CrcDependsOnTheMessageAlone :
    Instr.tblsb ∈ [Instr.bwmsb, .tbmsb, .bwlsb, .tblsb] ∧ full.MessageInRange ∧ full.MessageIs [0x0E, 0x0F] :=
  ⟨by decide, inRange_full, messageIs_full⟩
theorem witness_MsbAndLsbAgreeExactlyWhen : ∀ b ∈ ([0x00, 0x18, 0xFF] : List Byte), revByte b = b := by decide +kernel

/-- One entry written, the one the message selects. -/
def oneWritten : State := { withMsg [0xFF] with utab := [(0xFF, 0xDEADBEEF)] }

theorem witness_CallerTableMsbResult :
    oneWritten.MessageInRange ∧ oneWritten.MessageIs [0xFF] ∧ ∀ i ∈ msbSelected oneEntry [0xFF] 0, EntryIs oneWritten oneEntry i :=
  ⟨by unfold State.MessageInRange; decide, readBytes_eq_some.1 (by decide +kernel), by unfold EntryIs; decide +kernel⟩
theorem witness_CallerTableMsbResult_out_of_range : ¬(st 15 2).MessageInRange := witness_BitwiseMsbResult.2.2
/-- The second message byte selects entry 0xDE, which is not written (V-TB-6 with that entry missing). -/
theorem witness_CallerTableMsbResult_unwritten :
    let s := { oneWritten with opa := 14, opb := 2, msg := cells 14 [0xFF, 0x00] }
    s.MessageInRange ∧ s.MessageIs ([0xFF] ++ 0x00 :: []) ∧ (∀ i ∈ msbSelected oneEntry [0xFF] 0, EntryIs s oneEntry i) ∧
    Memory.read s.utab (msbIndex (crcTbMsb oneEntry [0xFF]) 0x00).toNat = none :=
  ⟨by unfold State.MessageInRange; decide, readBytes_eq_some.1 (by decide +kernel), by unfold EntryIs; decide +kernel,
    by decide +kernel⟩
theorem witness_CallerTableMsbResult_copy : ∀ i, EntryIs full (tabRead tblMsb) i := fun i => by
  have h := read_table (tabRead tblMsb) i.toNat i.isLt
  rwa [BitVec.ofNat_toNat, BitVec.setWidth_eq] at h
theorem witness_CallerTableMsbResult_empty : (st 16 0).MessageInRange ∧ (st 16 0).opb = 0 :=
  ⟨witness_TableMsbResult.1, rfl⟩

theorem witness_CallerTableLsbResult :
    oneWritten.MessageInRange ∧ oneWritten.MessageIs [0xFF] ∧ ∀ i ∈ lsbSelected oneEntry [0xFF] 0, EntryIs oneWritten oneEntry i :=
  ⟨by unfold State.MessageInRange; decide, readBytes_eq_some.1 (by decide +kernel), by unfold EntryIs; decide +kernel⟩
theorem witness_CallerTableLsbResult_out_of_range : ¬(st 15 2).MessageInRange := witness_BitwiseMsbResult.2.2
/-- The second message byte selects entry 0xEF, which is not written (V-TB-8 with that entry missing). -/
theorem witness_CallerTableLsbResult_unwritten :
    let s := { oneWritten with opa := 14, opb := 2, msg := cells 14 [0xFF, 0x00] }
    s.MessageInRange ∧ s.MessageIs ([0xFF] ++ 0x00 :: []) ∧ (∀ i ∈ lsbSelected oneEntry [0xFF] 0, EntryIs s oneEntry i) ∧
    Memory.read s.utab (lsbIndex (crcTbLsbRaw oneEntry [0xFF]) 0x00).toNat = none :=
  ⟨by unfold State.MessageInRange; decide, readBytes_eq_some.1 (by decide +kernel), by unfold EntryIs; decide +kernel,
    by decide +kernel⟩
theorem witness_CallerTableLsbResult_copy :
    ∀ i, EntryIs { full with utab := table (tabRead tblLsb) } (tabRead tblLsb) i := fun i => by
  have h := read_table (tabRead tblLsb) i.toNat i.isLt
  rwa [BitVec.ofNat_toNat, BitVec.setWidth_eq] at h

theorem witness_GeneratorCommandsResult :
    (st 0xFF 0).opa.toNat = (0xFF : Byte).toNat ∧ (st 0 0).opa.toNat = (0 : Byte).toNat ∧ 255 < (st 0x100 0).opa.toNat := by decide
theorem witness_TableReadCommandsResult :
    (st 0xFF 0).opa.toNat = (0xFF : Byte).toNat ∧ (st 0 0).opa.toNat = (0 : Byte).toNat ∧ 255 < (st 0x100 0).opa.toNat := by decide

theorem witness_ErrorCodesExactly_width : exec .reflect (st 1 33) = .next { st 1 33 with err := 1 } := rfl
theorem witness_ErrorCodesExactly_range : exec .trdlsb (st 256 0) = .next { st 256 0 with err := 3 } := rfl
theorem witness_ErrorCodesExactly_illegal : runCommand 0x20 (st 0 0) = .next { st 0 0 with cmd := 0x20, err := 2 } := rfl
theorem witness_ErrorCodesExactly_ok : exec .polymsb (st 0 0) = .next { st 0 0 with result := polyMsb, err := 0 } := rfl
theorem witness_ErrorsWriteOnlyErr :
    exec .bwmsb (st 15 2) = .next { st 15 2 with err := 3 } ∧ ({ st 15 2 with err := 3 } : State).err ≠ 0 :=
  ⟨rfl, by decide⟩
theorem witness_ErrorsWriteOnlyErr_illegal :
    runCommand 0x0 full = .next { full with cmd := 0x0, err := 2 } ∧ ({ full with cmd := 0x0, err := 2 } : State).err ≠ 0 :=
  ⟨rfl, by decide⟩

theorem witness_OperandRangeComesBeforeAnyRead :
    Instr.tbmsbU ∈ crcCommands ∧ (st 16 1).msgBytes < (st 16 1).opa.toNat + (st 16 1).opb.toNat ∧
    Instr.tgenmsb ∈ indexCommands ∧ 255 < (st 256 0).opa.toNat ∧ (st 0xFFFFFFFF 2).msgBytes ≤ 0xFFFF0000 ∧
    (st 0xFFFFFFFF 2).opa = 0xFFFFFFFF ∧ (st 0xFFFFFFFF 2).opb = 2 := by decide

/-- The last message byte is the only one not written. -/
theorem witness_UnwrittenLocationsFault_command :
    let s := { st 14 2 with msg := cells 14 [0xFF] }
    Instr.tblsbU ∈ crcCommands ∧ s.opa.toNat + s.opb.toNat ≤ s.msgBytes ∧ 1 < s.opb.toNat ∧
    Memory.read s.msg (s.opa.toNat + 1) = none := by decide +kernel
theorem witness_UnwrittenLocationsFault_message :
    15 < (st 0 0).msgBytes ∧ (0x1000F : Word).toNat = 0x10000 + 15 ∧ Memory.read (st 0 0).msg 15 = none ∧
    NextIsRead (hostOn (st 0 0) (.read 0x1000F .byte)) 0x1000F .byte [] := ⟨by decide, by decide, rfl, rfl⟩
theorem witness_UnwrittenLocationsFault_table :
    (0x7FC : Word).toNat = 0x400 + 4 * 255 ∧ Memory.read (st 0 0).utab 255 = none ∧
    NextIsRead (hostOn (st 0 0) (.read 0x7FC .word)) 0x7FC .word [] := ⟨by decide, rfl, rfl⟩

theorem witness_CommandsWriteOnlyResultErrAcc :
    exec .tgenlsb (st 255 0) = .next { st 255 0 with result := genLsb 255, err := 0 } ∧ Instr.tgenlsb ∉ crcCommands :=
  ⟨rfl, by decide⟩
/-- A CRC command answers a next state. -/
theorem witness_CommandsWriteOnlyResultErrAcc_crc : exec .tbmsb (st 16 0) = .next { st 16 0 with result := 0, err := 0 } := rfl

theorem witness_OnlyCmdWritesHaveSideEffects_read :
    NextIsRead (hostOn full (.read 0x1000F .byte)) 0x1000F .byte [] ∧
    step (hostOn full (.read 0x1000F .byte)) = .next { full with readData := some 0x0F } := ⟨rfl, rfl⟩
theorem witness_OnlyCmdWritesHaveSideEffects_write :
    NextIsWrite (hostOn full (.write 0x4 .word 7)) 0x4 .word 7 [] ∧ (0x4 : Word) ≠ 0x0 ∧ (0x4 : Word) ≠ 0x8 ∧
    step (hostOn full (.write 0x4 .word 7)) = .next { full with opa := 7 } := ⟨rfl, by decide, by decide, rfl⟩
theorem witness_OnlyCmdWritesHaveSideEffects_buffer :
    NextIsWrite (hostOn (st 0 0) (.write 0x10000 .byte 7)) 0x10000 .byte 7 [] ∧ (0x10000 : Word) ≠ 0x0 ∧
    (0x10000 : Word).toNat ≠ 0x10000 + 1 ∧ (0x10000 : Word).toNat ≠ 0x400 + 4 * 255 ∧
    step (hostOn (st 0 0) (.write 0x10000 .byte 7)) = .next { st 0 0 with msg := [(0, 7)] } :=
  ⟨rfl, by decide, by decide, by decide, rfl⟩
theorem witness_OnlyCmdWritesHaveSideEffects_command :
    NextIsWrite (hostOn full (.write 0x0 .word 0xA)) 0x0 .word 0xA [] ∧
    step (hostOn full (.write 0x0 .word 0xA)) = .next { full with cmd := 0xA, result := polyMsb, err := 0 } := ⟨rfl, rfl⟩
theorem witness_OnlyCmdWritesHaveSideEffects_operands :
    let s' := { st 255 0 with cmd := 9, result := 1, err := 3, readData := some 5 }
    s'.opa = (st 255 0).opa ∧ s'.opb = (st 255 0).opb ∧ s'.msg = (st 255 0).msg ∧ s'.utab = (st 255 0).utab ∧
    s'.msgBytes = (st 255 0).msgBytes ∧ exec .tgenlsb (st 255 0) = .next { st 255 0 with result := genLsb 255, err := 0 } :=
  ⟨rfl, rfl, rfl, rfl, rfl, rfl⟩

/-- The message at the end of the buffer and all 256 entries are written. -/
theorem witness_ReadyCommandsComplete_crc : ∀ i ∈ crcCommands, Ready i full := by
  have hr : full.opa.toNat + full.opb.toNat ≤ full.msgBytes := inRange_full
  have hm : ∀ p, p < full.opb.toNat → (Memory.read full.msg (full.opa.toNat + p)).isSome = true := by decide +kernel
  have hm' := fun p h => Option.isSome_iff_exists.1 (hm p h)
  have ht' : ∀ j, j < 256 → ∃ v, Memory.read full.utab j = some v := fun j h => ⟨_, read_table _ j h⟩
  intro i hi
  simp only [crcCommands, List.mem_cons, List.not_mem_nil, or_false] at hi
  rcases hi with rfl | rfl | rfl | rfl | rfl | rfl
  · exact ⟨hr, hm'⟩
  · exact ⟨hr, hm'⟩
  · exact ⟨hr, hm', ht'⟩
  · exact ⟨hr, hm'⟩
  · exact ⟨hr, hm'⟩
  · exact ⟨hr, hm', ht'⟩
theorem witness_ReadyCommandsComplete_index : ∀ i ∈ indexCommands, Ready i (st 255 0) := by
  intro i hi
  simp only [indexCommands, List.mem_cons, List.not_mem_nil, or_false] at hi
  rcases hi with rfl | rfl | rfl | rfl <;> exact (by decide : (st 255 0).opa.toNat ≤ 255)
theorem witness_ReadyCommandsComplete_reflect : Ready .reflect (st 1 32) ∧ Ready .polymsb (st 1 33) ∧ Ready .polylsb (st 1 33) :=
  ⟨(by decide : (st 1 32).opb.toNat ≤ 32), trivial, trivial⟩
theorem witness_ReadyCommandsComplete_reset : Instr.tbmsbU ∈ crcCommands := by decide

theorem witness_InvariantHoldsAtReset : 1 ≤ 1 ∧ 1 ≤ 0xFFFF0000 ∧ 1 ≤ 0xFFFF0000 ∧ 0xFFFF0000 ≤ 0xFFFF0000 := by decide

/-- A state that meets the invariant, with the message buffer full and the table's ends written, and a step from it. -/
theorem witness_InvariantKeptByEveryStep :
    let s := { full with utab := [(0, 1), (255, 2)] }
    (hostOn s (.write 0x0 .word 0xA)).Inv ∧
    step (hostOn s (.write 0x0 .word 0xA)) = .next { s with cmd := 0xA, result := polyMsb, err := 0 } :=
  ⟨⟨by decide, by decide +kernel, by decide +kernel, by decide, rfl⟩, rfl⟩
theorem witness_ErrIsExplainedByCmd :
    let s := hostOn { st 1 33 with cmd := 0x20, err := 2 } (.write 0x0 .word 0x1)
    (s.err = 1 → s.cmd = 0x00000001) ∧ (s.err = 2 → s.cmd ∉ opcodeTable.map Prod.fst) ∧
    (s.err = 3 → ∃ i, (s.cmd, i) ∈ opcodeTable ∧ (i ∈ crcCommands ∨ i ∈ indexCommands)) ∧
    step s = .next { st 1 33 with cmd := 0x1, err := 1 } :=
  ⟨fun h => absurd h (by decide), fun _ => by decide, fun h => absurd h (by decide), rfl⟩

theorem witness_ResetClearsRegistersAndBuffers :
    ({ full with pending := [.reset] } : State).pending = .reset :: [] ∧
    exec .tgenlsb (st 255 0) = .next { st 255 0 with result := genLsb 255, err := 0 } := ⟨rfl, rfl⟩

theorem witness_StepRunsTheDecodedCommand :
    NextIsWrite (hostOn full (.write 0x0 .word 0x15)) 0x0 .word 0x15 [] ∧ decode 0x15 = .instr .tblsbU ∧
    0x15 < 2 ^ 32 ∧ decodeTableWord 32 0x15 = some .tblsbU := ⟨rfl, by decide, by decide, by decide⟩

theorem witness_RegistersReadWhole :
    NextIsRead (hostOn full (.read 0x00 .word)) 0x00 .word [] ∧ NextIsRead (hostOn full (.read 0x04 .word)) 0x04 .word [] ∧
    NextIsRead (hostOn full (.read 0x08 .word)) 0x08 .word [] ∧ NextIsRead (hostOn full (.read 0x0C .word)) 0x0C .word [] ∧
    NextIsRead (hostOn full (.read 0x10 .word)) 0x10 .word [] := ⟨rfl, rfl, rfl, rfl, rfl⟩
theorem witness_RegisterWrites :
    NextIsWrite (hostOn full (.write 0x00 .word 1)) 0x00 .word 1 [] ∧ NextIsWrite (hostOn full (.write 0x04 .word 1)) 0x04 .word 1 [] ∧
    NextIsWrite (hostOn full (.write 0x08 .word 1)) 0x08 .word 1 [] ∧ NextIsWrite (hostOn full (.write 0x0C .word 1)) 0x0C .word 1 [] ∧
    NextIsWrite (hostOn full (.write 0x10 .word 1)) 0x10 .word 1 [] := ⟨rfl, rfl, rfl, rfl, rfl⟩

/-- The first and the last word of both reserved ranges. -/
theorem witness_ReservedWordsReadZero :
    ((0x14 : Word).toNat % 4 = 0 ∧ 0x14 ≤ (0x14 : Word).toNat ∧ (0x14 : Word).toNat < 0x400) ∧
    ((0x3FC : Word).toNat % 4 = 0 ∧ 0x14 ≤ (0x3FC : Word).toNat ∧ (0x3FC : Word).toNat < 0x400) ∧
    ((0x800 : Word).toNat % 4 = 0 ∧ 0x800 ≤ (0x800 : Word).toNat ∧ (0x800 : Word).toNat < 0x10000) ∧
    ((0xFFFC : Word).toNat % 4 = 0 ∧ 0x800 ≤ (0xFFFC : Word).toNat ∧ (0xFFFC : Word).toNat < 0x10000) := by decide
theorem witness_ReservedWordsReadZero_access :
    NextIsRead (hostOn full (.read 0x800 .word)) 0x800 .word [] ∧ NextIsWrite (hostOn full (.write 0x3FC .word 9)) 0x3FC .word 9 [] :=
  ⟨rfl, rfl⟩

theorem witness_BusErrorsExactly :
    NextIsRead (hostOn full (.read 0xFFFE .word)) 0xFFFE .word [] ∧ ¬LegalAccess 16 0xFFFE .word ∧
    NextIsWrite (hostOn full (.write 0x10010 .byte 9)) 0x10010 .byte 9 [] ∧ ¬LegalAccess 16 0x10010 .byte :=
  ⟨rfl, by unfold LegalAccess; decide, rfl, by unfold LegalAccess; decide⟩
theorem witness_BusErrorsExactly_legal :
    NextIsRead (hostOn full (.read 0xFFFC .word)) 0xFFFC .word [] ∧ LegalAccess 16 0xFFFC .word ∧
    NextIsWrite (hostOn full (.write 0x1000F .byte 9)) 0x1000F .byte 9 [] ∧ LegalAccess 16 0x1000F .byte :=
  ⟨rfl, by unfold LegalAccess; decide, rfl, by unfold LegalAccess; decide⟩

theorem witness_MessageBufferAccess :
    15 < full.msgBytes ∧ (0x1000F : Word).toNat = 0x10000 + 15 ∧ NextIsWrite (hostOn full (.write 0x1000F .byte 9)) 0x1000F .byte 9 [] ∧
    Memory.read full.msg 15 = some 15 ∧ NextIsRead (hostOn full (.read 0x1000F .byte)) 0x1000F .byte [] :=
  ⟨by decide, by decide, rfl, by decide +kernel, rfl⟩
theorem witness_MessageBufferAccess_wide :
    0 < full.msgBytes ∧ (0x10000 : Word).toNat = 0x10000 + 0 ∧ Width.word ≠ .byte ∧ Width.half ≠ .byte ∧
    NextIsWrite (hostOn full (.write 0x10000 .word 9)) 0x10000 .word 9 [] ∧
    NextIsRead (hostOn full (.read 0x10000 .half)) 0x10000 .half [] :=
  ⟨by decide, by decide, by decide, by decide, rfl, rfl⟩

theorem witness_CallerTableAccess :
    (255 : Nat) < 256 ∧ (0x7FC : Word).toNat = 0x400 + 4 * 255 ∧ NextIsWrite (hostOn full (.write 0x7FC .word 9)) 0x7FC .word 9 [] ∧
    Memory.read full.utab 255 = some 0x4E344A03 ∧ NextIsRead (hostOn full (.read 0x7FC .word)) 0x7FC .word [] :=
  ⟨by decide, by decide, rfl, by decide +kernel, rfl⟩
theorem witness_CallerTableAccess_first :
    (0 : Nat) < 256 ∧ (0x400 : Word).toNat = 0x400 + 4 * 0 ∧ NextIsRead (hostOn full (.read 0x400 .word)) 0x400 .word [] :=
  ⟨by decide, by decide, rfl⟩
theorem witness_CallerTableAccess_refused :
    0x400 ≤ (0x402 : Word).toNat ∧ (0x7FF : Word).toNat < 0x800 ∧ (0x402 : Word).toNat % 4 ≠ 0 ∧ Width.byte ≠ .word ∧
    NextIsRead (hostOn full (.read 0x402 .word)) 0x402 .word [] ∧ NextIsWrite (hostOn full (.write 0x7FF .byte 9)) 0x7FF .byte 9 [] :=
  ⟨by decide, by decide, by decide, by decide, rfl, rfl⟩

/-- The last byte of the largest buffer, and the last table entry. -/
theorem witness_StatementsReachTheirLocations : 0xFFFF0000 ≤ 0xFFFF0000 ∧ (Stmt.wrb 0xFFFEFFFF 1).wf 0xFFFF0000 = true ∧
    (Stmt.rdb 0xFFFEFFFF).wf 0xFFFF0000 = true ∧ (Stmt.wrt 255 1).wf 0xFFFF0000 = true ∧ (Stmt.rdt 255).wf 0xFFFF0000 = true := by
  decide +kernel

theorem witness_PseudoInstructionsRunTheirCommand :
    let s := { full with pending := (expand .reflect 5 32).map fun x => HostEvent.access x.toAccess }
    s.pending = ((expand .reflect 5 32).map fun x => HostEvent.access x.toAccess) ++ [] ∧
    ∃ t, runSteps (expand .reflect 5 32).length s = .next t := ⟨by simp, _, rfl⟩

/-- `POLYLSB` (R69) from a state with everything written, and then one access: the pending list, and that the command goes on. -/
def CommandThen (e : HostAccess) : Prop :=
  let s := { full with pending := [.access (.write 0x0 .word 0xB), .access e] }
  s.pending = .access (.write 0x0 .word 0xB) :: .access e :: [] ∧ ∃ t, runCommand 0xB (taken s [.access e]) = .next t

theorem witness_CommandIsCompleteBeforeTheNextAccess_result :
    CommandThen (.read 0x0C .word) := ⟨rfl, _, rfl⟩
theorem witness_CommandIsCompleteBeforeTheNextAccess_status :
    CommandThen (.read 0x10 .word) := ⟨rfl, _, rfl⟩
theorem witness_CommandIsCompleteBeforeTheNextAccess_opa :
    CommandThen (.write 0x4 .word 0xFFFFFFFF) := ⟨rfl, _, rfl⟩
theorem witness_CommandIsCompleteBeforeTheNextAccess_opb :
    CommandThen (.write 0x8 .word 0xFFFFFFFF) := ⟨rfl, _, rfl⟩
/-- The last byte of the buffer. -/
theorem witness_CommandIsCompleteBeforeTheNextAccess_msg :
    CommandThen (.write 0x1000F .byte 0xFF) ∧
    15 < full.msgBytes ∧ (0x1000F : Word).toNat = 0x10000 + 15 := ⟨⟨rfl, _, rfl⟩, by decide, by decide⟩
/-- The last entry of the table. -/
theorem witness_CommandIsCompleteBeforeTheNextAccess_utab :
    CommandThen (.write 0x7FC .word 9) ∧
    (255 : Nat) < 256 ∧ (0x7FC : Word).toNat = 0x400 + 4 * 255 := ⟨⟨rfl, _, rfl⟩, by decide, by decide⟩
theorem witness_CommandIsCompleteBeforeTheNextAccess_command :
    CommandThen (.write 0x0 .word 0x20) := ⟨rfl, _, rfl⟩

theorem witness_StepsStopOnlyByTheTwoFaults : State.reset.pending = [] := rfl

end Sys2Proof.Tests
end

/-! ## What a command can come to, and which operands its outcome depends on (30_encoding.md R53, 20_memory.md R43) -/

namespace Sys2Proof.Machine

open Sys2Proof.Claims

theorem widthOperand_ne_unwritten (s : State) : widthOperand s ≠ .unwritten := by
  unfold widthOperand
  split <;> simp

theorem indexOperand_ne_unwritten (s : State) : indexOperand s ≠ .unwritten := by
  unfold indexOperand
  split <;> simp

/-- A command whose operand is no buffer location raises an error or completes. -/
theorem withOperand_complete_cases {α : Type} {o : Operand α} (ho : o ≠ .unwritten) (f : α → Word) (s : State) :
    (∃ e, withOperand o s (fun a => .next (complete (f a) s)) = .next (raise e s)) ∨
    ∃ v, withOperand o s (fun a => .next (complete (f a) s)) = .next (complete v s) := by
  cases o with
  | value a => exact .inr ⟨f a, rfl⟩
  | error e => exact .inl ⟨e, rfl⟩
  | unwritten => exact absurd rfl ho

/-- The three kinds of outcome of a CRC command, without what each says of its operands. -/
theorem crcCommand_outcome (upd : Word → Byte → Option Word) (out : Word → Word) (s : State) :
    (∃ e, crcCommand upd out s = .next (raise e s)) ∨
    (∃ v, crcCommand upd out s = .next (complete v { s with acc := none })) ∨
    crcCommand upd out s = .fault .unwrittenOperand := by
  obtain ⟨m, a, -, -, -, h⟩ | ⟨-, h⟩ | h := crcCommand_cases upd out s
  · exact .inr (.inl ⟨_, h⟩)
  · exact .inl ⟨_, h⟩
  · exact .inr (.inr h)

/-- All that a command can come to: an error raised, a result delivered (a CRC command then leaves no `ACC`), or, for a CRC
command only, the stop at an unwritten location. -/
theorem exec_cases (i : Instr) (s : State) :
    (∃ e, exec i s = .next (raise e s)) ∨
    (∃ v, exec i s = .next (complete v { s with acc := if i ∈ crcCommands then none else s.acc })) ∨
    (i ∈ crcCommands ∧ exec i s = .fault .unwrittenOperand) := by
  cases i with
  | reflect => exact (withOperand_complete_cases (widthOperand_ne_unwritten s) _ s).imp_right .inl
  | tgenmsb | tgenlsb | trdmsb | trdlsb =>
    exact (withOperand_complete_cases (indexOperand_ne_unwritten s) _ s).imp_right .inl
  | polymsb | polylsb => exact .inr (.inl ⟨_, rfl⟩)
  | bwmsb | tbmsb | bwlsb | tblsb | tbmsbU | tblsbU =>
    exact (crcCommand_outcome _ _ s).imp_right (.imp_right fun h => ⟨by decide, h⟩)

/-- The frame of a command: it changes `RESULT`, `ERR` and `ACC` only. -/
theorem exec_frame {i : Instr} {s t : State} (h : exec i s = .next t) :
    t = { s with result := t.result, err := t.err, acc := t.acc } := by
  obtain ⟨e, he⟩ | ⟨v, he⟩ | ⟨-, he⟩ := exec_cases i s
  · cases he.symm.trans h; rfl
  · cases he.symm.trans h; rfl
  · cases he.symm.trans h

/-- The frame of a write to `CMD`: it changes `CMD` and what commands change. -/
theorem runCommand_frame {c : Word} {s t : State} (h : runCommand c s = .next t) :
    t = { s with cmd := c, result := t.result, err := t.err, acc := t.acc } := by
  unfold runCommand at h
  split at h
  · exact exec_frame h
  · cases h; rfl

theorem exec_ne_hostBusError (i : Instr) (s : State) : exec i s ≠ .fault .hostBusError := by
  obtain ⟨e, he⟩ | ⟨v, he⟩ | ⟨-, he⟩ := exec_cases i s <;> simp [he]

theorem runCommand_ne_hostBusError (c : Word) (s : State) : runCommand c s ≠ .fault .hostBusError := by
  unfold runCommand
  split
  · exact exec_ne_hostBusError _ _
  · simp

/-- Two states with the same operands of every command: `OPA`, `OPB`, `MSG`, `UTAB`, and the capacity. -/
structure SameOperands (s s' : State) : Prop where
  opa : s'.opa = s.opa
  opb : s'.opb = s.opb
  msg : s'.msg = s.msg
  utab : s'.utab = s.utab
  msgBytes : s'.msgBytes = s.msgBytes

namespace SameOperands

variable {s s' : State} (h : SameOperands s s')
include h

theorem widthOperand_eq : widthOperand s' = widthOperand s := by simp only [widthOperand, h.opb]

theorem indexOperand_eq : indexOperand s' = indexOperand s := by simp only [indexOperand, h.opa]

theorem messageOperand_eq : messageOperand s' = messageOperand s := by
  simp only [messageOperand, h.opa, h.opb, h.msg, h.msgBytes]

theorem utabRead_eq (i : Byte) : utabRead s' i = utabRead s i := by simp only [utabRead, h.utab]

end SameOperands

/-- Outcome `o'` has what the host can see of `o`: it goes on when `o` does, with the same `ERR`, and with the same `RESULT`
when there is no error. -/
def AnswersAlike (o o' : Out) : Prop :=
  ∀ t, o = .next t → ∃ t', o' = .next t' ∧ t'.err = t.err ∧ (t.err = 0 → t'.result = t.result)

theorem complete_answersAlike (v : Word) (s s' : State) :
    AnswersAlike (.next (complete v s)) (.next (complete v s')) := by
  rintro _ ⟨⟩
  exact ⟨_, rfl, rfl, fun _ => rfl⟩

theorem errorCode_ne_zero (e : CmdError) : errorCode e ≠ 0 := by cases e <;> decide

theorem raise_answersAlike (e : CmdError) (s s' : State) : AnswersAlike (.next (raise e s)) (.next (raise e s')) := by
  rintro _ ⟨⟩
  exact ⟨_, rfl, rfl, fun h => absurd h (errorCode_ne_zero e)⟩

theorem fault_answersAlike (r : Fault) (o : Out) : AnswersAlike (.fault r) o := by
  rintro _ ⟨⟩

theorem withOperand_answersAlike {α : Type} (o : Operand α) (s s' : State) {k k' : α → Out}
    (h : ∀ a, AnswersAlike (k a) (k' a)) : AnswersAlike (withOperand o s k) (withOperand o s' k') := by
  cases o with
  | value a => exact h a
  | error e => exact raise_answersAlike e s s'
  | unwritten => exact fault_answersAlike _ _

/-- A CRC command's answer depends on its message, the updates and the delivery alone. -/
theorem crcCommand_answersAlike {s s' : State} (h : SameOperands s s') (upd : Word → Byte → Option Word)
    (out : Word → Word) : AnswersAlike (crcCommand upd out s) (crcCommand upd out s') := by
  rw [crcCommand, crcCommand, h.messageOperand_eq]
  refine withOperand_answersAlike _ _ _ fun m => ?_
  simp only [startAcc, engineLoop_acc]
  cases foldAcc upd m 0 with
  | some a => exact complete_answersAlike _ _ _
  | none => exact fault_answersAlike _ _

/-- A command's answer depends on its operands alone. -/
theorem exec_answersAlike {s s' : State} (h : SameOperands s s') (i : Instr) :
    AnswersAlike (exec i s) (exec i s') := by
  cases i with
  | reflect =>
    simp only [exec, execReflect, h.widthOperand_eq, h.opa]
    exact withOperand_answersAlike _ _ _ fun _ => complete_answersAlike _ _ _
  | tgenmsb | tgenlsb | trdmsb | trdlsb =>
    simp only [exec, execTgenmsb, execTgenlsb, execTrdmsb, execTrdlsb, h.indexOperand_eq]
    exact withOperand_answersAlike _ _ _ fun _ => complete_answersAlike _ _ _
  | polymsb | polylsb => exact complete_answersAlike _ _ _
  | bwmsb | tbmsb | bwlsb | tblsb => exact crcCommand_answersAlike h _ _
  | tbmsbU | tblsbU =>
    simp only [exec, execTbmsbU, execTblsbU, h.utabRead_eq]
    exact crcCommand_answersAlike h _ _

end Sys2Proof.Machine

/-! ## What a host access does, per kind of location (20_memory.md R32 to R38) -/

namespace Sys2Proof.Machine

open Sys2Proof.Claims

/-- A second write of the same value changes nothing, whether or not the buffer is in canonical form. -/
theorem Memory.write_write_same {α : Type} (m : Memory α) (a : Nat) (v : α) :
    Memory.write (Memory.write m a v) a v = Memory.write m a v := by
  induction m with
  | nil => simp [Memory.write]
  | cons c m ih =>
    by_cases hlt : a < c.1
    · simp [Memory.write, hlt]
    · by_cases heq : a = c.1
      · simp [Memory.write, heq]
      · simp [Memory.write, hlt, heq, ih]

/-- The map answers a bus error exactly for the accesses that are not legal. -/
theorem target_busError_iff (n : Nat) (addr : Word) (w : Width) :
    target n addr w = .busError ↔ ¬LegalAccess n addr w := by
  obtain ⟨r, rfl, rfl, ht⟩ | ⟨hlt, rfl, hal, -, ht⟩ | ⟨i, hi, ha, rfl, ht⟩ | ⟨a, hn, ha, rfl, ht⟩ | ⟨hw, hb, ht⟩ :=
    target_cases n addr w
  · have hl : LegalAccess n r.offset .word := .inl (by cases r <;> decide)
    simp [ht, hl]
  · have hl : LegalAccess n addr .word := .inl ⟨hlt, rfl, hal⟩
    simp [ht, hl]
  · have hl : LegalAccess n addr .word := .inl ⟨by omega, rfl, by omega⟩
    simp [ht, hl]
  · have hl : LegalAccess n addr .byte := .inr ⟨by omega, by omega, rfl⟩
    simp [ht, hl]
  · have hl : ¬LegalAccess n addr w := fun h => h.elim hw hb
    simp [ht, hl]

/-- A host read is a bus error exactly when it is not legal. -/
theorem hostRead_busError_iff (addr : Word) (w : Width) (s : State) :
    hostRead addr w s = .fault .hostBusError ↔ ¬LegalAccess s.msgBytes addr w := by
  rw [← target_busError_iff, hostRead]
  split
  · simp [*]
  · simp [*]
  · split <;> simp [*]
  · split <;> simp [*]
  · simp [*]

/-- A host write is a bus error exactly when it is not legal: the command that a `CMD` write runs raises none. -/
theorem hostWrite_busError_iff (addr : Word) (w : Width) (v : Word) (s : State) :
    hostWrite addr w v s = .fault .hostBusError ↔ ¬LegalAccess s.msgBytes addr w := by
  rw [← target_busError_iff, hostWrite]
  split
  case h_1 r ht =>
    have hr : writeReg r v s ≠ .fault .hostBusError := by
      cases r with
      | cmd => exact runCommand_ne_hostBusError v s
      | opa | opb | result | status => simp [writeReg]
    simp [hr, ht]
  all_goals simp [*]

/-- A host read that goes on changes the bus answer only. -/
theorem hostRead_next {addr : Word} {w : Width} {s t : State} (h : hostRead addr w s = .next t) :
    ∃ v, t = answer v s := by
  unfold hostRead at h
  split at h
  · cases h; exact ⟨_, rfl⟩
  · cases h; exact ⟨_, rfl⟩
  · split at h
    · cases h; exact ⟨_, rfl⟩
    · cases h
  · split at h
    · cases h; exact ⟨_, rfl⟩
    · cases h
  · cases h

theorem hostRead_reserved {addr : Word} {s : State} (ha : addr.toNat % 4 = 0)
    (h : (0x14 ≤ addr.toNat ∧ addr.toNat < 0x400) ∨ (0x800 ≤ addr.toNat ∧ addr.toNat < 0x10000)) :
    hostRead addr .word s = .next (answer 0 s) := by
  rw [hostRead, target_reserved ha h]

theorem hostRead_utab {i : Nat} {addr v : Word} {s : State} (hi : i < 256) (ha : addr.toNat = 0x400 + 4 * i)
    (hv : Memory.read s.utab i = some v) : hostRead addr .word s = .next (answer v s) := by
  simp only [hostRead, target_utab hi ha, hv]

theorem hostRead_msg {a : Nat} {addr : Word} {b : Byte} {s : State} (hn : a < s.msgBytes)
    (ha : addr.toNat = 0x10000 + a) (hb : Memory.read s.msg a = some b) :
    hostRead addr .byte s = .next (answer (b.setWidth 32) s) := by
  simp only [hostRead, target_msg hn ha, hb]

theorem hostWrite_reserved {addr : Word} (v : Word) (s : State) (ha : addr.toNat % 4 = 0)
    (h : (0x14 ≤ addr.toNat ∧ addr.toNat < 0x400) ∨ (0x800 ≤ addr.toNat ∧ addr.toNat < 0x10000)) :
    hostWrite addr .word v s = .next s := by
  rw [hostWrite, target_reserved ha h]

theorem hostWrite_utab {i : Nat} {addr : Word} (v : Word) (s : State) (hi : i < 256)
    (ha : addr.toNat = 0x400 + 4 * i) :
    hostWrite addr .word v s = .next { s with utab := Memory.write s.utab i v } := by
  rw [hostWrite, target_utab hi ha]

theorem hostWrite_msg {a : Nat} {addr : Word} (v : Word) (s : State) (hn : a < s.msgBytes)
    (ha : addr.toNat = 0x10000 + a) :
    hostWrite addr .byte v s = .next { s with msg := Memory.write s.msg a (v.setWidth 8) } := by
  rw [hostWrite, target_msg hn ha]

/-- A host write to a register. -/
theorem hostWrite_register (r : HostReg) (v : Word) (s : State) :
    hostWrite r.offset .word v s = writeReg r v s := by
  cases r <;> rfl

/-- All that a host write can come to when it goes on. -/
theorem hostWrite_next {addr : Word} {w : Width} {v : Word} {s t : State} (h : hostWrite addr w v s = .next t) :
    (addr = 0x0 ∧ w = .word ∧ runCommand v s = .next t) ∨
    (addr = 0x4 ∧ w = .word ∧ t = { s with opa := v }) ∨
    (addr = 0x8 ∧ w = .word ∧ t = { s with opb := v }) ∨
    (addr ≠ 0x0 ∧ addr ≠ 0x4 ∧ addr ≠ 0x8 ∧ t = s) ∨
    (∃ i, i < 256 ∧ addr.toNat = 0x400 + 4 * i ∧ w = .word ∧ t = { s with utab := Memory.write s.utab i v }) ∨
    (∃ a, a < s.msgBytes ∧ addr.toNat = 0x10000 + a ∧ w = .byte ∧
      t = { s with msg := Memory.write s.msg a (v.setWidth 8) }) := by
  obtain ⟨r, rfl, rfl, -⟩ | ⟨-, rfl, -, hr, ht⟩ | ⟨i, hi, ha, rfl, -⟩ | ⟨a, hn, ha, rfl, -⟩ | ⟨-, -, ht⟩ :=
    target_cases s.msgBytes addr w
  · rw [hostWrite_register] at h
    cases r with
    | cmd => exact .inl ⟨rfl, rfl, h⟩
    | opa => cases h; exact .inr (.inl ⟨rfl, rfl, rfl⟩)
    | opb => cases h; exact .inr (.inr (.inl ⟨rfl, rfl, rfl⟩))
    | result | status => cases h; exact .inr (.inr (.inr (.inl ⟨by decide, by decide, by decide, rfl⟩)))
  · rw [hostWrite, ht] at h
    cases h
    exact .inr (.inr (.inr (.inl ⟨hr .cmd, hr .opa, hr .opb, rfl⟩)))
  · cases (hostWrite_utab v s hi ha).symm.trans h
    exact .inr (.inr (.inr (.inr (.inl ⟨i, hi, ha, rfl, rfl⟩))))
  · cases (hostWrite_msg v s hn ha).symm.trans h
    exact .inr (.inr (.inr (.inr (.inr ⟨a, hn, ha, rfl, rfl⟩))))
  · rw [hostWrite, ht] at h
    cases h

/-- Repeating a host write other than to `CMD` changes nothing more. -/
theorem hostWrite_idempotent {addr : Word} {w : Width} {v : Word} {s t : State} (h0 : addr ≠ 0x0)
    (h : hostWrite addr w v s = .next t) : hostWrite addr w v t = .next t := by
  obtain ⟨rfl, -⟩ | ⟨rfl, rfl, rfl⟩ | ⟨rfl, rfl, rfl⟩ | ⟨-, -, -, rfl⟩ | ⟨i, hi, ha, rfl, rfl⟩ | ⟨a, hn, ha, rfl, rfl⟩ :=
    hostWrite_next h
  · exact absurd rfl h0
  · exact hostWrite_register .opa v _
  · exact hostWrite_register .opb v _
  · exact h
  · rw [hostWrite_utab v _ hi ha, Memory.write_write_same]
  · rw [hostWrite_msg v _ ?_ ha, Memory.write_write_same]
    exact hn

/-- Where a host write changes nothing, neither does the step that takes it, but for the list and the bus answer. -/
theorem step_write_unchanged {addr : Word} {w : Width} {v : Word} {rest : List HostEvent} {t : State}
    (hp : t.pending = rest) (hd : t.readData = none) (h : hostWrite addr w v t = .next t) :
    step { t with pending := .access (.write addr w v) :: rest } = .next t := by
  rw [step_write rfl, ← hp, ← hd]
  exact h

end Sys2Proof.Machine

/-! ## The statements of 20_memory.md -/

namespace Sys2Proof.Machine

open Sys2Proof.Claims

/-- Settles O43: a register's offset reaches that register, so the step is its register write. -/
theorem registerWrites : Obligations.RegisterWrites := by
  refine ⟨fun s v rest h => ?_, fun s v rest h => ?_, fun s v rest h => ?_, fun s v rest h => ?_, fun s v rest h => ?_⟩
  · exact (step_write h).trans (hostWrite_register .result v _)
  · exact (step_write h).trans (hostWrite_register .status v _)
  · exact (step_write h).trans (hostWrite_register .opa v _)
  · exact (step_write h).trans (hostWrite_register .opb v _)
  · exact (step_write h).trans (hostWrite_register .cmd v _)

/-- Settles O44: the map reaches a reserved word in both ranges. -/
theorem reservedWordsReadZero : Obligations.ReservedWordsReadZero := by
  intro s addr rest hal hrange
  exact ⟨fun h => (step_read h).trans (hostRead_reserved hal hrange),
    fun v h => (step_write h).trans (hostWrite_reserved v _ hal hrange)⟩

/-- Settles O45: the map's bus errors are the illegal accesses, and neither a read of an unwritten location nor a command
stops with that fault. -/
theorem busErrorsExactly : Obligations.BusErrorsExactly := by
  refine ⟨fun s addr w rest h => ?_, fun s addr w v rest h => ?_⟩
  · rw [step_read h]
    exact hostRead_busError_iff addr w _
  · rw [step_write h]
    exact hostWrite_busError_iff addr w v _

/-- Settles O46: the offset's address reaches its byte, and no wider access there is legal. -/
theorem messageBufferAccess : Obligations.MessageBufferAccess := by
  intro s a addr rest hn ha
  have illegal : ∀ w, w ≠ .byte → ¬LegalAccess s.msgBytes addr w := by
    rintro w hw (⟨hlt, -, -⟩ | ⟨-, -, hb⟩)
    · omega
    · exact hw hb
  refine ⟨fun v h => ⟨_, (step_write h).trans (hostWrite_msg v _ hn ha), ?_, fun a' ha' => ?_⟩,
    fun b hb h => ?_, fun w v hw h => ?_, fun w hw h => ?_⟩
  · rw [Memory.read_write_same]
    exact congrArg some (BitVec.eq_of_toNat_eq (by simp))
  · exact Memory.read_write_other _ _ ha'
  · rw [BitVec.ofNat_toNat]
    exact (step_read h).trans (hostRead_msg hn ha hb)
  · exact (busErrorsExactly.2 s addr w v rest h).2 (illegal w hw)
  · exact (busErrorsExactly.1 s addr w rest h).2 (illegal w hw)

/-- Settles O47: the index's address reaches its entry, and in the window only an aligned word access is legal. -/
theorem callerTableAccess : Obligations.CallerTableAccess := by
  refine ⟨fun s i addr rest hi ha => ⟨fun v h => ?_, fun v hv h => ?_⟩, fun s addr w rest hlo hhi hbad => ?_⟩
  · exact ⟨_, (step_write h).trans (hostWrite_utab v _ hi ha), Memory.read_write_same _ _ _,
      fun j hj => Memory.read_write_other _ _ hj⟩
  · exact (step_read h).trans (hostRead_utab hi ha hv)
  · have illegal : ¬LegalAccess s.msgBytes addr w := by
      rintro (⟨-, hw, hal⟩ | ⟨hge, -, -⟩)
      · exact hbad.elim (absurd hw) (absurd hal)
      · omega
    exact ⟨fun v h => (busErrorsExactly.2 s addr w v rest h).2 illegal,
      fun h => (busErrorsExactly.1 s addr w rest h).2 illegal⟩

/-- Settles O34: a read only answers, a write other than to `CMD` replaces its own location and is idempotent, and a
command writes `RESULT`, `ERR` and `ACC` from its operands alone. -/
theorem onlyCmdWritesHaveSideEffects : Obligations.OnlyCmdWritesHaveSideEffects := by
  refine ⟨fun s t addr w rest hr h => ?_, fun s t addr w v rest hw h0 h => ?_, fun s t v rest hw h => ?_,
    fun i s s' t hopa hopb hmsg hutab hbytes h => exec_answersAlike ⟨hopa, hopb, hmsg, hutab, hbytes⟩ i t h⟩
  · rw [step_read hr] at h
    obtain ⟨v, rfl⟩ := hostRead_next h
    rfl
  · rw [step_write hw] at h
    have again : hostWrite addr w v t = .next t := hostWrite_idempotent h0 h
    obtain ⟨rfl, -⟩ | ⟨rfl, -, rfl⟩ | ⟨rfl, -, rfl⟩ | ⟨-, -, -, rfl⟩ | ⟨i, -, ha, -, rfl⟩ | ⟨a, -, ha, -, rfl⟩ :=
      hostWrite_next h
    · exact absurd rfl h0
    · exact ⟨rfl, fun h4 => absurd rfl h4, fun _ => rfl, fun _ _ => rfl, fun _ _ => rfl,
        step_write_unchanged rfl rfl again⟩
    · exact ⟨rfl, fun _ => rfl, fun h8 => absurd rfl h8, fun _ _ => rfl, fun _ _ => rfl,
        step_write_unchanged rfl rfl again⟩
    · exact ⟨rfl, fun _ => rfl, fun _ => rfl, fun _ _ => rfl, fun _ _ => rfl,
        step_write_unchanged rfl rfl again⟩
    · exact ⟨rfl, fun _ => rfl, fun _ => rfl, fun _ _ => rfl,
        fun j hj => Memory.read_write_other _ _ fun e => hj (e ▸ ha), step_write_unchanged rfl rfl again⟩
    · exact ⟨rfl, fun _ => rfl, fun _ => rfl, fun b hb => Memory.read_write_other _ _ fun e => hb (e ▸ ha),
        fun _ _ => rfl, step_write_unchanged rfl rfl again⟩
  · rw [step_write hw] at h
    exact runCommand_frame h

end Sys2Proof.Machine

/-! ## Which words are commands, and with which fields (30_encoding.md R49 to R55) -/

namespace Sys2Proof

open Sys2Proof.Claims

@[simp] theorem fieldsOf_op_toNat (c : Word) : (fieldsOf c).op.toNat = c.toNat % 16 := by
  simp [fieldsOf]

@[simp] theorem fieldsOf_reserved_toNat (c : Word) : (fieldsOf c).reserved.toNat = c.toNat / 2 ^ 5 := by
  have hc : c.toNat < 2 ^ 32 := c.isLt
  simp only [fieldsOf, BitVec.extractLsb'_toNat, Nat.shiftRight_eq_div_pow]
  omega

/-- A word is the concatenation of its fields. -/
theorem toWord_fieldsOf (c : Word) : (fieldsOf c).toWord = c := by
  ext j hj
  simp only [CmdFields.toWord, fieldsOf]
  grind

/-- The fields of a word are the ones it was put together from. -/
theorem fieldsOf_toWord (f : CmdFields) : fieldsOf f.toWord = f := by
  obtain ⟨op, ut, reserved⟩ := f
  simp only [CmdFields.toWord, fieldsOf, CmdFields.mk.injEq]
  refine ⟨?op, ?ut, ?reserved⟩
  case op => ext j hj; grind
  case ut => grind
  case reserved => ext j hj; grind

theorem fieldsOf_eq_iff {c : Word} {f : CmdFields} : fieldsOf c = f ↔ c = f.toWord :=
  ⟨fun h => h ▸ (toWord_fieldsOf c).symm, fun h => h ▸ fieldsOf_toWord f⟩

/-! ### The decoder's answer -/

/-- Without `UT`, the decoder answers the command whose `OP` it is given. -/
theorem fields_of_decodeOp {n : Nat} {i : Instr} (h : decodeOp n = .instr i) :
    i.fields = { op := BitVec.ofNat 4 n, ut := false, reserved := 0 } := by
  unfold decodeOp at h
  split at h <;> cases h <;> rfl

/-- With `UT`, the decoder answers the caller-table command whose `OP` it is given. -/
theorem fields_of_decodeUt {n : Nat} {i : Instr} (h : decodeUt n = .instr i) :
    i.fields = { op := BitVec.ofNat 4 n, ut := true, reserved := 0 } := by
  unfold decodeUt at h
  split at h <;> cases h <;> rfl

theorem decodeOp_assigned {n : Nat} (h1 : 1 ≤ n) (h11 : n ≤ 0xB) : ∃ i, decodeOp n = .instr i := by
  interval_cases n <;> exact ⟨_, rfl⟩

/-- A word decodes to the command whose fields it holds, and to no other. -/
theorem decode_eq_instr_iff_fieldsOf {c : Word} {i : Instr} : decode c = .instr i ↔ fieldsOf c = i.fields := by
  rw [decode]
  constructor
  · intro h
    split at h
    · cases h
    next hr =>
      have hr : (fieldsOf c).reserved = 0 := not_not.1 hr
      split at h
      next hu => rw [fields_of_decodeUt h, BitVec.ofNat_toNat, BitVec.setWidth_eq, ← hu, ← hr]
      next hu => rw [fields_of_decodeOp h, BitVec.ofNat_toNat, BitVec.setWidth_eq, ← Bool.eq_false_iff.2 hu, ← hr]
  · intro h
    rw [h]
    cases i <;> rfl

theorem decode_eq_instr_iff {c : Word} {i : Instr} : decode c = .instr i ↔ c = encode i :=
  decode_eq_instr_iff_fieldsOf.trans fieldsOf_eq_iff

/-! ### The legal words -/

/-- The legal fields are those of the commands. -/
theorem wf_iff_exists_fields {f : CmdFields} : f.wf = true ↔ ∃ i : Instr, f = i.fields := by
  constructor
  · obtain ⟨op, ut, reserved⟩ := f
    intro h
    simp only [CmdFields.wf, CmdFields.reservedClear, CmdFields.opAssigned, CmdFields.utAllowed, Bool.and_eq_true,
      Bool.or_eq_true, Bool.not_eq_true', beq_iff_eq, decide_eq_true_eq] at h
    obtain ⟨⟨rfl, h1, h11⟩, (rfl | rfl) | rfl⟩ := h
    · obtain ⟨i, hi⟩ := decodeOp_assigned h1 h11
      exact ⟨i, by rw [fields_of_decodeOp hi, BitVec.ofNat_toNat, BitVec.setWidth_eq]⟩
    · cases ut
      · exact ⟨.tbmsb, rfl⟩
      · exact ⟨.tbmsbU, rfl⟩
    · cases ut
      · exact ⟨.tblsb, rfl⟩
      · exact ⟨.tblsbU, rfl⟩
  · rintro ⟨i, rfl⟩
    cases i <;> decide

theorem mem_opcodeTable_iff {c : Word} {i : Instr} : (c, i) ∈ opcodeTable ↔ c = encode i := by
  cases i <;> simp [opcodeTable] <;> rfl

/-- The words of the opcode table are those with legal fields. -/
theorem mem_opcodeTable_words_iff_wf {c : Word} : c ∈ opcodeTable.map Prod.fst ↔ (fieldsOf c).wf = true := by
  simp [mem_opcodeTable_iff, wf_iff_exists_fields, fieldsOf_eq_iff, encode]

/-- R55 lists the words whose fields are not legal: its four clauses negate the four checks. -/
theorem illegalWord_iff_not_wf {c : Word} : IllegalWord c ↔ ¬(fieldsOf c).wf = true := by
  have hr : (fieldsOf c).reserved = 0 ↔ c.toNat / 2 ^ 5 = 0 := by simp [← BitVec.toNat_inj]
  have h3 : (fieldsOf c).op = 0x3 ↔ c.toNat % 16 = 0x3 := by simp [← BitVec.toNat_inj]
  have h5 : (fieldsOf c).op = 0x5 ↔ c.toNat % 16 = 0x5 := by simp [← BitVec.toNat_inj]
  have hu : (fieldsOf c).ut = c.getLsbD 4 := rfl
  simp only [IllegalWord, CmdFields.wf, CmdFields.reservedClear, CmdFields.opAssigned, CmdFields.utAllowed,
    Bool.and_eq_true, Bool.or_eq_true, Bool.not_eq_true', beq_iff_eq, decide_eq_true_eq, hr, h3, h5, hu,
    fieldsOf_op_toNat]
  cases c.getLsbD 4 <;> simp <;> omega

end Sys2Proof

namespace Sys2Proof.Machine

open Sys2Proof.Claims

/-- A word that is no command raises IllegalCommand, and `CMD` takes it. -/
theorem runCommand_illegal {c : Word} (h : c ∉ opcodeTable.map Prod.fst) (s : State) :
    runCommand c s = .next { s with cmd := c, err := 2 } := by
  cases hd : decode c with
  | instr i => exact absurd (List.mem_map_of_mem (mem_opcodeTable_iff.2 (decode_eq_instr_iff.1 hd))) h
  | illegal e => rw [runCommand, hd]; rfl

/-- The command word of `i` runs `i`. -/
theorem runCommand_encode (i : Instr) (s : State) : runCommand (encode i) s = exec i { s with cmd := encode i } := by
  rw [runCommand, decode_eq_instr_iff.2 rfl]

/-! ## Running a pseudo-instruction (30_encoding.md R58) -/

/-- A statement `WR` is one step, which writes its register. -/
theorem step_wr {s : State} {r : HostReg} {v : Word} {rest : List HostEvent}
    (h : s.pending = .access (Stmt.wr r v).toAccess :: rest) : step s = writeReg r v (taken s rest) :=
  (step_write h).trans (hostWrite_register r v _)

/-- Running on after a write of `OPA` or `OPB`. -/
theorem runSteps_wr {s t : State} {r : HostReg} {v : Word} {rest : List HostEvent} (k : Nat)
    (h : s.pending = .access (Stmt.wr r v).toAccess :: rest) (ht : writeReg r v (taken s rest) = .next t) :
    runSteps (k + 1) s = runSteps k t := by
  rw [runSteps, step_wr h, ht]

theorem runSteps_one (s : State) : runSteps 1 s = step s := by
  simp only [runSteps]
  cases step s <;> rfl

/-- The last write of a pseudo-instruction runs its command. -/
theorem runSteps_wr_cmd {s : State} {i : Instr} {rest : List HostEvent}
    (h : s.pending = .access (Stmt.wr .cmd (encode i)).toAccess :: rest) :
    runSteps 1 s = exec i { taken s rest with cmd := encode i } := by
  rw [runSteps_one, step_wr h]
  exact runCommand_encode i _

/-- A pseudo-instruction is the writes of its operands that are not ignored, then the write of its command word. -/
theorem expand_eq (i : Instr) (a b : Word) : expand i a b =
    (if writesOpa i then [.wr .opa a] else []) ++ (if writesOpb i then [.wr .opb b] else []) ++
      [.wr .cmd (encode i)] := by
  cases i <;> rfl

/-- The run of a pseudo-instruction is its command on the operands it wrote. -/
theorem runSteps_expand {i : Instr} {a b : Word} {s : State} {rest : List HostEvent}
    (h : s.pending = (expand i a b).map (fun st => HostEvent.access st.toAccess) ++ rest) :
    runSteps (expand i a b).length s =
      exec i { taken s rest with
        cmd := encode i, opa := if writesOpa i then a else s.opa, opb := if writesOpb i then b else s.opb } := by
  cases i with
  | polymsb | polylsb => exact runSteps_wr_cmd h
  | tgenmsb | tgenlsb | trdmsb | trdlsb => exact (runSteps_wr 1 h rfl).trans (runSteps_wr_cmd rfl)
  | reflect | bwmsb | tbmsb | bwlsb | tblsb | tbmsbU | tblsbU =>
    exact (runSteps_wr 2 h rfl).trans ((runSteps_wr 1 rfl rfl).trans (runSteps_wr_cmd rfl))

end Sys2Proof.Machine

/-! ## The statements of 30_encoding.md -/

namespace Sys2Proof.Machine

open Sys2Proof.Claims

/-- Settles O1: a word decodes to the command that it encodes, which is its row of the table. -/
theorem exactlyThirteenWordsAreLegal : Obligations.ExactlyThirteenWordsAreLegal :=
  ⟨fun _ _ => decode_eq_instr_iff.trans mem_opcodeTable_iff.symm, fun _ s h => runCommand_illegal h s⟩

/-- Settles O4: R55's words and the words outside the table are both those whose fields are not legal. -/
theorem illegalWordRaisesIllegalCommand : Obligations.IllegalWordRaisesIllegalCommand := by
  have illegal_iff : ∀ c : Word, IllegalWord c ↔ c ∉ opcodeTable.map Prod.fst := fun c =>
    illegalWord_iff_not_wf.trans (not_congr mem_opcodeTable_words_iff_wf.symm)
  refine ⟨illegal_iff, fun s c rest hc hw => ?_⟩
  exact (step_command hw).trans (runCommand_illegal ((illegal_iff c).1 hc) _)

/-- Settles O49: each expansion is run write by write, and the command at its end keeps `OPA` and `OPB`. -/
theorem pseudoInstructionsRunTheirCommand : Obligations.PseudoInstructionsRunTheirCommand := by
  refine ⟨expand_eq, fun i a b s rest h => ⟨runSteps_expand h, fun t ht => ?_⟩⟩
  have frame := exec_frame ((runSteps_expand h).symm.trans ht)
  exact ⟨congrArg State.opa frame, congrArg State.opb frame⟩

end Sys2Proof.Machine

/-! ## The reflector's loop, bit by bit and as a number (40_reflector_and_constants.md R60) -/

namespace Sys2Proof.Machine

open Sys2Proof.Claims

/-- The loop of R60 after its first `k` steps. -/
def revLoop (w : Nat) (v : Word) (k : Nat) : Word := (List.range k).foldl (revStep w v) 0

theorem rev_eq_revLoop (w : Nat) (v : Word) : rev w v = revLoop w v w := rfl

@[simp] theorem revLoop_zero (w : Nat) (v : Word) : revLoop w v 0 = 0 := rfl

theorem revLoop_succ (w : Nat) (v : Word) (k : Nat) : revLoop w v (k + 1) = revStep w v (revLoop w v k) k := by
  simp [revLoop, List.range_succ]

/-- Where the target bit is still clear, the addition of R60 carries nothing: a step puts bit `i` of the value there. -/
theorem getLsbD_revStep {w i : Nat} {r : Word} (v : Word) (hw : w ≤ 32) (hi : i < w)
    (clear : r.getLsbD (w - 1 - i) = false) (j : Nat) :
    (revStep w v r i).getLsbD j = if j = w - 1 - i then v.getLsbD i else r.getLsbD j := by
  have twoPow : BitVec.ofNat 32 (2 ^ (w - 1 - i)) = BitVec.twoPow 32 (w - 1 - i) :=
    BitVec.eq_of_toNat_eq (by simp [BitVec.toNat_twoPow])
  have disjoint : r &&& BitVec.twoPow 32 (w - 1 - i) = 0#32 := by simp [BitVec.and_twoPow, clear]
  have inWord : w - 1 - i < 32 := by omega
  rw [revStep, twoPow, BitVec.add_eq_or_of_and_eq_zero _ _ disjoint]
  cases hv : v.getLsbD i with
  | false =>
    by_cases hj : j = w - 1 - i
    · simp only [hj, clear, if_true, Bool.false_eq_true, if_false]
    · simp only [if_neg hj, Bool.false_eq_true, if_false]
  | true =>
    by_cases hj : j = w - 1 - i
    · simp [hj, inWord]
    · simp [hj, Ne.symm hj]

/-- The first `k` steps fill the top `k` of the `w` result bits, and no others. -/
theorem getLsbD_revLoop {w k : Nat} (v : Word) (hw : w ≤ 32) (hk : k ≤ w) (j : Nat) :
    (revLoop w v k).getLsbD j = (decide (j < w) && decide (w ≤ j + k) && v.getLsbD (w - 1 - j)) := by
  induction k generalizing j with
  | zero => simp
  | succ k ih =>
    have clear : (revLoop w v k).getLsbD (w - 1 - k) = false := by
      have notYet : ¬w ≤ w - 1 - k + k := by omega
      simp [ih (by omega), notYet]
    rw [revLoop_succ, getLsbD_revStep v hw hk clear, ih (by omega)]
    by_cases hj : j = w - 1 - k
    · have hk' : w - 1 - j = k := by omega
      have hlt : j < w := by omega
      have hle : w ≤ j + (k + 1) := by omega
      simp [if_pos hj, hk', hlt, hle]
    · have same : w ≤ j + k ↔ w ≤ j + (k + 1) := by omega
      simp only [if_neg hj, same]

/-- R60's own description of the bits. -/
theorem getLsbD_rev {w : Nat} (v : Word) (hw : w ≤ 32) (j : Nat) :
    (rev w v).getLsbD j = (decide (j < w) && v.getLsbD (w - 1 - j)) := by
  rw [rev_eq_revLoop, getLsbD_revLoop v hw le_rfl]
  simp

/-- The loop of R60 over natural numbers after its first `k` steps. -/
def revLoopPseudo (w v k : Nat) : Nat :=
  (List.range k).foldl (fun r i => if bitOf v i = 1 then r + 2 ^ (w - 1 - i) else r) 0

theorem revPseudo_eq_revLoopPseudo (w v : Nat) : revPseudo w v = revLoopPseudo w v w := rfl

@[simp] theorem revLoopPseudo_zero (w v : Nat) : revLoopPseudo w v 0 = 0 := rfl

theorem revLoopPseudo_succ (w v k : Nat) : revLoopPseudo w v (k + 1) =
    if bitOf v k = 1 then revLoopPseudo w v k + 2 ^ (w - 1 - k) else revLoopPseudo w v k := by
  simp [revLoopPseudo, List.range_succ]

/-- Each step takes at most half of what is left below 2^w. -/
theorem revLoopPseudo_add_le {w k : Nat} (v : Nat) (hk : k ≤ w) : revLoopPseudo w v k + 2 ^ (w - k) ≤ 2 ^ w := by
  induction k with
  | zero => simp
  | succ k ih =>
    have ih := ih (by omega)
    have half : 2 ^ (w - k) = 2 * 2 ^ (w - 1 - k) := by rw [← pow_succ']; congr 1; omega
    rw [revLoopPseudo_succ, show w - (k + 1) = w - 1 - k by omega]
    split <;> omega

theorem revPseudo_lt (w v : Nat) : revPseudo w v < 2 ^ w := by
  have h := revLoopPseudo_add_le (w := w) v le_rfl
  rw [Nat.sub_self, ← revPseudo_eq_revLoopPseudo] at h
  exact h

theorem bitOf_toNat_eq_one_iff (v : Word) (i : Nat) : bitOf v.toNat i = 1 ↔ v.getLsbD i = true := by
  rw [bitOf, ← BitVec.testBit_toNat, Nat.testBit_eq_decide_div_mod_eq, decide_eq_true_iff]

/-- The bit-vector loop never wraps, so it computes the loop over natural numbers. -/
theorem toNat_revLoop {w k : Nat} (v : Word) (hw : w ≤ 32) (hk : k ≤ w) :
    (revLoop w v k).toNat = revLoopPseudo w v.toNat k := by
  induction k with
  | zero => rfl
  | succ k ih =>
    have ih := ih (by omega)
    have bound := revLoopPseudo_add_le v.toNat hk
    have hpow : 2 ^ w ≤ 2 ^ 32 := Nat.pow_le_pow_right (by decide) hw
    rw [revLoopPseudo_succ] at bound ⊢
    simp only [revLoop_succ, revStep, bitOf_toNat_eq_one_iff] at bound ⊢
    by_cases hv : v.getLsbD k
    · rw [if_pos hv] at bound ⊢
      have hpos : 0 < 2 ^ (w - (k + 1)) := Nat.two_pow_pos _
      have hadd : (BitVec.ofNat 32 (2 ^ (w - 1 - k))).toNat = 2 ^ (w - 1 - k) := by
        rw [BitVec.toNat_ofNat, Nat.mod_eq_of_lt (by omega)]
      rw [if_pos hv, BitVec.toNat_add_of_lt (by omega), hadd, ih]
    · rw [if_neg hv, if_neg hv, ih]

theorem toNat_rev {w : Nat} (v : Word) (hw : w ≤ 32) : (rev w v).toNat = revPseudo w v.toNat := by
  rw [rev_eq_revLoop, toNat_revLoop v hw le_rfl, revPseudo_eq_revLoopPseudo]

/-- A word is the reflection exactly when its bits are. -/
theorem rev_eq_iff {w : Nat} {v u : Word} (hw : w ≤ 32) :
    rev w v = u ↔ ∀ j, u.getLsbD j = (decide (j < w) && v.getLsbD (w - 1 - j)) := by
  constructor
  · rintro rfl j
    exact getLsbD_rev v hw j
  · intro h
    exact BitVec.eq_of_getLsbD_eq fun j _ => (getLsbD_rev v hw j).trans (h j).symm

theorem rev_one (v : Word) : rev 1 v = BitVec.ofNat 32 (v.toNat % 2) := by
  apply BitVec.eq_of_toNat_eq
  rw [toNat_rev v (by decide), BitVec.toNat_ofNat]
  obtain h | h := Nat.mod_two_eq_zero_or_one v.toNat <;> simp [revPseudo, bitOf, h]

/-- Reflection ignores the bits at and above its width (R61). -/
theorem rev_congr {w : Nat} {v v' : Word} (hw : w ≤ 32) (h : v.toNat % 2 ^ w = v'.toNat % 2 ^ w) :
    rev w v = rev w v' := by
  have low : ∀ i, i < w → v.getLsbD i = v'.getLsbD i := by
    intro i hi
    have hbit := congrArg (Nat.testBit · i) h
    simpa only [Nat.testBit_mod_two_pow, hi, decide_true, Bool.true_and, BitVec.testBit_toNat] using hbit
  refine (rev_eq_iff hw).2 fun j => ?_
  rw [getLsbD_rev v' hw]
  by_cases hj : j < w
  · rw [low _ (by omega)]
  · simp [hj]

theorem rev_eq_self_of_palindrome {w : Nat} {v : Word} (hw : w ≤ 32) (hlt : v.toNat < 2 ^ w)
    (hpal : ∀ j, j < w → v.getLsbD j = v.getLsbD (w - 1 - j)) : rev w v = v := by
  refine (rev_eq_iff hw).2 fun j => ?_
  by_cases hj : j < w
  · simp [hj, hpal j hj]
  · have hlt' : v.toNat < 2 ^ j := hlt.trans_le (Nat.pow_le_pow_right (by decide) (not_lt.1 hj))
    simp [hj, ← BitVec.testBit_toNat, Nat.testBit_lt_two_pow hlt']

/-! ## `REFLECT` (R61, R62) and the constants (R66, R67) -/

theorem exec_reflect_valid {s : State} (h : s.opb.toNat ≤ 32) :
    exec .reflect s = .next (complete (rev s.opb.toNat s.opa) s) := by
  rw [exec, execReflect, widthOperand_valid h, withOperand_value]

theorem exec_reflect_invalid {s : State} (h : 32 < s.opb.toNat) : exec .reflect s = .next (raise .invalidWidth s) := by
  rw [exec, execReflect, widthOperand_invalid h, withOperand_error]

/-- `POLY_LSB` as a number (R67). -/
theorem polyLsb_eq : polyLsb = 0xEB31D82E := by decide

/-- Reflecting `POLY_LSB` gives `POLY_MSB` back (R67). -/
theorem rev_polyLsb : rev 32 polyLsb = polyMsb := by
  rw [polyLsb_eq]
  decide

theorem exec_polymsb (s : State) : exec .polymsb s = .next (complete polyMsb s) := rfl

theorem exec_polylsb (s : State) : exec .polylsb s = .next (complete polyLsb s) := rfl

end Sys2Proof.Machine

/-! ## The statements of 40_reflector_and_constants.md, sections 1 to 3 -/

namespace Sys2Proof.Machine

open Sys2Proof.Claims

/-- Settles O5: the bits are those of the finished loop, and the range and the value those of the loop over natural
numbers, which never wraps. -/
theorem reflectionReversesTheLowBits : Obligations.ReflectionReversesTheLowBits := by
  intro w v hw
  refine ⟨fun j hj => ?_, fun j hj => ?_, ?_, toNat_rev v hw⟩
  · simp [getLsbD_rev v hw, hj]
  · simp [getLsbD_rev v hw, Nat.not_lt.2 hj]
  · exact toNat_rev v hw ▸ revPseudo_lt w v.toNat

/-- Settles O7: the width check decides between the two outcomes, and the corner cases follow from the bits of `rev`. -/
theorem reflectResult : Obligations.ReflectResult := by
  refine ⟨rfl, fun _ => exec_reflect_valid, fun _ => exec_reflect_invalid, fun v => ⟨rfl, rev_one v⟩,
    fun _ _ _ => rev_congr, fun _ _ => rev_eq_self_of_palindrome, ?_, ?_, ?_, polyLsb_eq⟩
  all_goals decide

/-- Settles O8: neither command reads an operand, and `POLY_LSB` is the reflection of `POLY_MSB`. -/
theorem polynomialConstantsRead : Obligations.PolynomialConstantsRead :=
  ⟨rfl, rfl, exec_polymsb, fun s => polyLsb_eq ▸ exec_polylsb s, rfl, polyLsb_eq, rfl, rev_polyLsb⟩

end Sys2Proof.Machine

/-! ## The bitwise engines over natural numbers (41_bitwise_engines.md R72, R74) -/

namespace Sys2Proof.Machine

open Sys2Proof.Claims

theorem bitOf_toNat {n : Nat} (v : BitVec n) (i : Nat) : bitOf v.toNat i = (v.getLsbD i).toNat := by
  rw [bitOf, ← BitVec.testBit_toNat, Nat.toNat_testBit]

theorem toNat_msbBit (acc : Word) (b : Byte) (k : Nat) :
    (msbBit acc (b.getLsbD k)).toNat = msbBitPseudo b.toNat acc.toNat k := by
  have sampled : bitOf acc.toNat 31 ^^^ bitOf b.toNat k = 1 ↔ (acc.getLsbD 31 ^^ b.getLsbD k) = true := by
    rw [bitOf_toNat, bitOf_toNat]
    cases acc.getLsbD 31 <;> cases b.getLsbD k <;> decide
  have shifted : (acc <<< 1).toNat = acc.toNat * 2 % 2 ^ 32 := by
    rw [BitVec.toNat_shiftLeft, Nat.shiftLeft_eq, pow_one]
  simp only [msbBit, msbBitPseudo, sampled]
  split
  · rw [BitVec.toNat_xor, shifted]; rfl
  · exact shifted

/-- `msbBits b k` is the loop `for i in k-1 downto 0` of R72. -/
theorem toNat_msbBits (b : Byte) (k : Nat) (acc : Word) :
    (msbBits b k acc).toNat = (List.range k).reverse.foldl (msbBitPseudo b.toNat) acc.toNat := by
  induction k generalizing acc with
  | zero => rfl
  | succ k ih => simp [msbBits, ih, toNat_msbBit, List.range_succ]

theorem toNat_crcBwMsb (m : List Byte) : (crcBwMsb m).toNat = crcBwMsbPseudo (m.map BitVec.toNat) := by
  rw [crcBwMsb, crcBwMsbPseudo, List.foldl_map]
  exact (List.foldl_hom BitVec.toNat fun acc b => (toNat_msbBits b 8 acc).symm).symm

theorem rounds_eq_iterate (f : Word → Word) (n : Nat) (w : Word) : rounds f n w = f^[n] w := by
  induction n generalizing w with
  | zero => rfl
  | succ n ih => exact ih (f w)

theorem toNat_lsbRound (acc : Word) : (lsbRound acc).toNat = rightRoundPseudo acc.toNat := by
  have shifted : (acc >>> 1).toNat = acc.toNat / 2 := by
    rw [BitVec.toNat_ushiftRight, Nat.shiftRight_eq_div_pow, pow_one]
  simp only [lsbRound, rightRoundPseudo, bitOf_toNat_eq_one_iff]
  split
  · rw [BitVec.toNat_xor, shifted, polyLsb_eq]; rfl
  · exact shifted

theorem toNat_bwLsbByte (acc : Word) (b : Byte) :
    (bwLsbByte acc b).toNat = rightRoundPseudo^[8] (acc.toNat ^^^ b.toNat) := by
  have rounds8 : Function.Semiconj BitVec.toNat lsbRound^[8] rightRoundPseudo^[8] :=
    Function.Semiconj.iterate_right toNat_lsbRound 8
  rw [bwLsbByte, rounds_eq_iterate, rounds8.eq, BitVec.toNat_xor, BitVec.toNat_setWidth_of_le (by decide)]

theorem toNat_crcBwLsbRaw (m : List Byte) : (crcBwLsbRaw m).toNat = crcBwLsbRawPseudo (m.map BitVec.toNat) := by
  rw [crcBwLsbRaw, crcBwLsbRawPseudo, List.foldl_map]
  exact (List.foldl_hom BitVec.toNat fun acc b => (toNat_bwLsbByte acc b).symm).symm

end Sys2Proof.Machine

/-! ## Engines on zero bytes and on sums of messages (R79 to R81) -/

namespace Sys2Proof.Machine

open Sys2Proof.Claims

/-- A byte update that maps the register value 0 and the byte 0 to 0 does not see leading zero bytes (R80). -/
theorem foldl_zeros_append {upd : Word → Byte → Word} (h0 : upd 0 0 = 0) (k : Nat) (m : List Byte) :
    (zeros k ++ m).foldl upd 0 = m.foldl upd 0 := by
  induction k with
  | zero => rfl
  | succ k ih => rw [zeros, List.replicate_succ, List.cons_append, List.foldl_cons, h0]; exact ih

theorem crcBwMsb_zeros_append (k : Nat) (m : List Byte) : crcBwMsb (zeros k ++ m) = crcBwMsb m :=
  foldl_zeros_append (by decide) k m

theorem crcBwLsbRaw_zeros_append (k : Nat) (m : List Byte) : crcBwLsbRaw (zeros k ++ m) = crcBwLsbRaw m :=
  foldl_zeros_append (by decide) k m

theorem crcBwMsb_zeros (k : Nat) : crcBwMsb (zeros k) = 0 :=
  (congrArg crcBwMsb (List.append_nil _)).symm.trans (crcBwMsb_zeros_append k [])

theorem crcBwLsbRaw_zeros (k : Nat) : crcBwLsbRaw (zeros k) = 0 :=
  (congrArg crcBwLsbRaw (List.append_nil _)).symm.trans (crcBwLsbRaw_zeros_append k [])

/-- A byte update that is linear in the register value and the byte gives an engine that is linear over messages of equal
length (R79). -/
theorem foldl_xorBytes {upd : Word → Byte → Word}
    (linear : ∀ x y a b, upd (x ^^^ y) (a ^^^ b) = upd x a ^^^ upd y b) {m n : List Byte} (hlen : m.length = n.length)
    (x y : Word) : (xorBytes m n).foldl upd (x ^^^ y) = m.foldl upd x ^^^ n.foldl upd y := by
  induction m generalizing n x y with
  | nil =>
    obtain rfl := List.eq_nil_of_length_eq_zero hlen.symm
    rfl
  | cons a m ih =>
    cases n with
    | nil => cases hlen
    | cons b n =>
      have step := ih (Nat.succ.inj hlen) (upd x a) (upd y b)
      rwa [← linear] at step

/-- One bit step is linear in the register and the message bit: `POLY_MSB` is XORed on neither side, on both sides once, or
twice on one side, where it cancels. -/
theorem msbBit_xor (x y : Word) (a b : Bool) : msbBit (x ^^^ y) (a ^^ b) = msbBit x a ^^^ msbBit y b := by
  have shifted : (x ^^^ y) <<< 1 = x <<< 1 ^^^ y <<< 1 := BitVec.shiftLeft_xor_distrib x y 1
  have selected : ((x ^^^ y).getLsbD 31 ^^ (a ^^ b)) = ((x.getLsbD 31 ^^ a) ^^ (y.getLsbD 31 ^^ b)) := by
    simp only [BitVec.getLsbD_xor, Bool.xor_assoc, Bool.xor_left_comm]
  simp only [msbBit, selected, shifted]
  cases x.getLsbD 31 ^^ a <;> cases y.getLsbD 31 ^^ b <;>
    simp [BitVec.xor_assoc, BitVec.xor_comm polyMsb]

theorem msbBits_xor (a b : Byte) (k : Nat) (x y : Word) :
    msbBits (a ^^^ b) k (x ^^^ y) = msbBits a k x ^^^ msbBits b k y := by
  induction k generalizing x y with
  | zero => rfl
  | succ k ih => simp only [msbBits, BitVec.getLsbD_xor, msbBit_xor, ih]

/-- The MSB engine is linear over messages of equal length (R79). -/
theorem crcBwMsb_xorBytes {m n : List Byte} (hlen : m.length = n.length) :
    crcBwMsb (xorBytes m n) = crcBwMsb m ^^^ crcBwMsb n :=
  foldl_xorBytes (fun x y a b => msbBits_xor a b 8 x y) hlen 0 0

end Sys2Proof.Machine

/-! ## The LSB engine mirrors the MSB engine (R78) -/

namespace Sys2Proof.Machine

open Sys2Proof.Claims

theorem msbBit_false (w : Word) : msbBit w false = genMsbRound w := by
  rw [msbBit, Bool.xor_false]
  rfl

/-- A message bit equal to the sampled `acc[31]` cancels it, so that no XOR of the polynomial follows the shift. -/
theorem msbBit_top (w : Word) : msbBit w (w.getLsbD 31) = w <<< 1 := by
  simp [msbBit]

/-- Feeding the low `k` bits of a byte one by one is feeding them all at once into the top of the register. -/
theorem msbBits_eq_rounds (b : Byte) {k : Nat} (hk : k ≤ 32) (acc : Word) :
    msbBits b k acc = rounds genMsbRound k (acc ^^^ b.setWidth 32 <<< (32 - k)) := by
  induction k generalizing acc with
  | zero => simp [msbBits, rounds]
  | succ k ih =>
    have next : b.setWidth 32 <<< (32 - k) = (b.setWidth 32 <<< (32 - (k + 1)) : Word) <<< 1 := by
      rw [← BitVec.shiftLeft_add]; congr 1; omega
    have top : (b.setWidth 32 <<< (32 - (k + 1)) : Word).getLsbD 31 = b.getLsbD k := by
      have index : 31 - (32 - (k + 1)) = k := by omega
      have inWord : k < 32 := by omega
      rw [BitVec.getLsbD_shiftLeft, BitVec.getLsbD_setWidth, index]
      simp [inWord]
    rw [msbBits, rounds, ih (by omega), ← msbBit_false, ← Bool.xor_self (b.getLsbD k), msbBit_xor, next]
    congr 2
    rw [← top, msbBit_top]

theorem bwMsbByte_eq_rounds (acc : Word) (b : Byte) :
    bwMsbByte acc b = rounds genMsbRound 8 (acc ^^^ b.setWidth 32 <<< 24) :=
  msbBits_eq_rounds b (by decide) acc

theorem rev_xor {w : Nat} (hw : w ≤ 32) (x y : Word) : rev w (x ^^^ y) = rev w x ^^^ rev w y := by
  refine (rev_eq_iff hw).2 fun j => ?_
  simp only [BitVec.getLsbD_xor, getLsbD_rev _ hw, Bool.and_xor_distrib_left]

theorem rev_ushiftRight_one (w : Word) : rev 32 (w >>> 1) = rev 32 w <<< 1 := by
  refine (rev_eq_iff le_rfl).2 fun j => ?_
  rw [BitVec.getLsbD_shiftLeft, getLsbD_rev w le_rfl, BitVec.getLsbD_ushiftRight]
  cases j with
  | zero => simp
  | succ j =>
    by_cases hj : j + 1 < 32
    · have inWord : j < 32 := by omega
      have index : 1 + (32 - 1 - (j + 1)) = 32 - 1 - j := by omega
      rw [index, Nat.add_sub_cancel]
      simp [hj, inWord]
    · simp [hj]

theorem rev_lsbRound (w : Word) : rev 32 (lsbRound w) = genMsbRound (rev 32 w) := by
  have sampled : (rev 32 w).getLsbD 31 = w.getLsbD 0 := getLsbD_rev w le_rfl 31
  rw [lsbRound, genMsbRound, sampled]
  split
  · rw [rev_xor le_rfl, rev_ushiftRight_one, rev_polyLsb]
  · exact rev_ushiftRight_one w

/-- A byte in the low end of a word is, reflected, the reflected byte in the top end. -/
theorem rev_setWidth_byte (b : Byte) : rev 32 (b.setWidth 32) = (revByte b).setWidth 32 <<< 24 := by
  refine (rev_eq_iff le_rfl).2 fun j => ?_
  rw [BitVec.getLsbD_shiftLeft, BitVec.getLsbD_setWidth, revByte, BitVec.getLsbD_setWidth, getLsbD_rev _ (by decide),
    BitVec.getLsbD_setWidth]
  by_cases low : j < 24
  · have outside : 8 ≤ 32 - 1 - j := by omega
    simp [low, BitVec.getLsbD_of_ge b _ outside]
  · by_cases inWord : j < 32
    · have index : 8 - 1 - (j - 24) = 32 - 1 - j := by omega
      have inByte : j - 24 < 8 := by omega
      have offset : j - 24 < 32 := by omega
      rw [index]
      simp [low, inWord, inByte, offset]
    · simp [inWord]

theorem rev_bwLsbByte (acc : Word) (b : Byte) : rev 32 (bwLsbByte acc b) = bwMsbByte (rev 32 acc) (revByte b) := by
  have rounds8 : Function.Semiconj (rev 32) lsbRound^[8] genMsbRound^[8] :=
    Function.Semiconj.iterate_right rev_lsbRound 8
  rw [bwLsbByte, bwMsbByte_eq_rounds, rounds_eq_iterate, rounds_eq_iterate, rounds8.eq, rev_xor le_rfl,
    rev_setWidth_byte]

/-- The LSB engine computes the MSB engine over the reflected bytes (R78). -/
theorem rev_crcBwLsbRaw (m : List Byte) : rev 32 (crcBwLsbRaw m) = crcBwMsb (rbytes m) := by
  have start : rev 32 0 = 0 := by decide
  rw [crcBwMsb, rbytes, List.foldl_map, ← start]
  exact (List.foldl_hom (rev 32) fun acc b => (rev_bwLsbByte acc b).symm).symm

/-- The engines agree on a message exactly under the condition of R84. -/
theorem rev_crcBwLsbRaw_eq_crcBwMsb_iff (m : List Byte) :
    rev 32 (crcBwLsbRaw m) = crcBwMsb m ↔ crcBwMsb (xorBytes m (rbytes m)) = 0 := by
  rw [rev_crcBwLsbRaw, crcBwMsb_xorBytes (n := rbytes m) (List.length_map _).symm, eq_comm]
  exact BitVec.xor_eq_zero_iff.symm

end Sys2Proof.Machine

/-! ## `BWMSB` (R73) and `BWLSB` (R76) -/

namespace Sys2Proof.Machine

/-- A CRC command whose updates never stop delivers the fold of its update over the message. -/
theorem crcCommand_total {upd : Word → Byte → Word} {out : Word → Word} {s : State} {m : List Byte}
    (hr : s.MessageInRange) (hm : s.MessageIs m) :
    crcCommand (fun acc b => some (upd acc b)) out s =
      .next (complete (out (m.foldl upd 0)) { s with acc := none }) :=
  crcCommand_completes hr hm (foldAcc_total upd m 0)

theorem exec_bwmsb_readable {s : State} {m : List Byte} (hr : s.MessageInRange) (hm : s.MessageIs m) :
    exec .bwmsb s = .next (complete (crcBwMsb m) { s with acc := none }) := crcCommand_total hr hm

theorem exec_bwmsb_range {s : State} (hr : ¬s.MessageInRange) : exec .bwmsb s = .next (raise .operandRange s) :=
  crcCommand_range hr

theorem exec_bwlsb_readable {s : State} {m : List Byte} (hr : s.MessageInRange) (hm : s.MessageIs m) :
    exec .bwlsb s = .next (complete (rev 32 (crcBwLsbRaw m)) { s with acc := none }) := crcCommand_total hr hm

theorem exec_bwlsb_range {s : State} (hr : ¬s.MessageInRange) : exec .bwlsb s = .next (raise .operandRange s) :=
  crcCommand_range hr

end Sys2Proof.Machine

/-! ## The statements of 41_bitwise_engines.md, sections 2 and 3 -/

namespace Sys2Proof.Machine

open Sys2Proof.Claims

/-- Settles O9: each step over bit vectors is the rule's step over natural numbers, so the loops over the message agree. -/
theorem bitwiseEnginesFollowThePseudocode : Obligations.BitwiseEnginesFollowThePseudocode := by
  intro m
  refine ⟨toNat_crcBwMsb m, toNat_crcBwLsbRaw m, ?_⟩
  rw [crcBwLsb, toNat_rev _ le_rfl, toNat_crcBwLsbRaw]

/-- Settles O10: the engine's updates always succeed, so the command's outcome is the range check's, and a zero byte leaves
the register value 0 as it is. -/
theorem bitwiseMsbResult : Obligations.BitwiseMsbResult :=
  ⟨rfl, fun _ _ => exec_bwmsb_readable, fun _ => exec_bwmsb_range, rfl, crcBwMsb_zeros, crcBwMsb_zeros_append,
    by decide⟩

/-- Settles O11: as for `BWMSB`, and the reflected result is the MSB engine's over the reflected bytes, which is linear. -/
theorem bitwiseLsbResult : Obligations.BitwiseLsbResult := by
  refine ⟨rfl, fun _ _ => exec_bwlsb_readable, fun _ => exec_bwlsb_range, by decide,
    fun k => by rw [crcBwLsbRaw_zeros]; decide, rev_crcBwLsbRaw_eq_crcBwMsb_iff, ?_, ?_, ?_, ?_⟩
  all_goals decide

end Sys2Proof.Machine

/-! ## The generators and the ROM listing (42_table_engines.md R86, R91, R101) -/

namespace Sys2Proof.Machine

open Sys2Proof.Claims

theorem toNat_genMsbRound (w : Word) : (genMsbRound w).toNat = leftRoundPseudo w.toNat := by
  have shifted : (w <<< 1).toNat = w.toNat * 2 % 2 ^ 32 := by
    rw [BitVec.toNat_shiftLeft, Nat.shiftLeft_eq, pow_one]
  simp only [genMsbRound, leftRoundPseudo, bitOf_toNat_eq_one_iff]
  split
  · rw [BitVec.toNat_xor, shifted, Nat.xor_mod_two_pow]; rfl
  · exact shifted

theorem toNat_genMsb (i : Byte) : (genMsb i).toNat = genMsbPseudo i.toNat := by
  have rounds8 : Function.Semiconj BitVec.toNat genMsbRound^[8] leftRoundPseudo^[8] :=
    Function.Semiconj.iterate_right toNat_genMsbRound 8
  have start : (i.setWidth 32 <<< 24 : Word).toNat = i.toNat * 2 ^ 24 := by
    rw [BitVec.toNat_shiftLeft, BitVec.toNat_setWidth_of_le (by decide), Nat.shiftLeft_eq]
    exact Nat.mod_eq_of_lt (by omega)
  rw [genMsb, rounds_eq_iterate, rounds8.eq, start, genMsbPseudo]

/-- A byte that the LSB engine feeds into the register value 0 leaves there the byte's generated entry. -/
theorem bwLsbByte_zero (b : Byte) : bwLsbByte 0 b = genLsb b :=
  congrArg (rounds lsbRound 8) BitVec.zero_xor

theorem toNat_genLsb (i : Byte) : (genLsb i).toNat = genLsbPseudo i.toNat := by
  have entry : (genLsb i).toNat = rightRoundPseudo^[8] i.toNat := by
    rw [← bwLsbByte_zero, toNat_bwLsbByte]
    exact congrArg _ (Nat.zero_xor _)
  rw [genLsbPseudo, ← entry, Nat.mod_eq_of_lt (genLsb i).isLt]

/-- Reading a built-in table whose contents are listed by `f`. -/
theorem tabRead_of_toList {t : Vector Word 256} {f : Byte → Word}
    (listing : t.toList = (List.range 256).map fun i => f (BitVec.ofNat 8 i)) (i : Byte) : tabRead t i = f i := by
  have entry : t.toList[i.toNat]? = some (tabRead t i) := by
    rw [Vector.getElem?_toList, Vector.getElem?_eq_getElem i.isLt, tabRead]
  rw [listing, List.getElem?_map, List.getElem?_range i.isLt, Option.map_some, BitVec.ofNat_toNat,
    BitVec.setWidth_eq] at entry
  exact (Option.some.inj entry).symm

/-- The ROM listing of `TBL_MSB`, read entry by entry, holds the generated entries. -/
theorem tabRead_tblMsb (i : Byte) : tabRead tblMsb i = genMsb i :=
  tabRead_of_toList (by decide +kernel) i

/-- The ROM listing of `TBL_LSB`, read entry by entry, holds the generated entries. -/
theorem tabRead_tblLsb (i : Byte) : tabRead tblLsb i = genLsb i :=
  tabRead_of_toList (by decide +kernel) i

end Sys2Proof.Machine

/-! ## The table engines over natural numbers (42_table_engines.md R87, R92) -/

namespace Sys2Proof.Machine

open Sys2Proof.Claims

theorem msbIndex_eq_ofNat (acc : Word) (b : Byte) :
    msbIndex acc b = BitVec.ofNat 8 (((acc.toNat / 2 ^ 24) ^^^ b.toNat) % 2 ^ 8) := by
  apply BitVec.eq_of_toNat_eq
  rw [msbIndex, BitVec.toNat_setWidth, BitVec.toNat_xor, BitVec.toNat_ushiftRight, Nat.shiftRight_eq_div_pow,
    BitVec.toNat_setWidth_of_le (by decide), BitVec.toNat_ofNat, Nat.mod_mod]

theorem lsbIndex_eq_ofNat (acc : Word) (b : Byte) :
    lsbIndex acc b = BitVec.ofNat 8 ((acc.toNat ^^^ b.toNat) % 2 ^ 8) := by
  apply BitVec.eq_of_toNat_eq
  rw [lsbIndex, BitVec.toNat_setWidth, BitVec.toNat_xor, BitVec.toNat_setWidth_of_le (by decide), BitVec.toNat_ofNat,
    Nat.mod_mod]

theorem toNat_msbShift (acc e : Word) :
    (msbShift acc e).toNat = ((acc.toNat * 2 ^ 8 % 2 ^ 32) ^^^ e.toNat) % 2 ^ 32 := by
  have bound := (msbShift acc e).isLt
  rw [msbShift, BitVec.toNat_xor, BitVec.toNat_shiftLeft, Nat.shiftLeft_eq] at bound
  rw [msbShift, BitVec.toNat_xor, BitVec.toNat_shiftLeft, Nat.shiftLeft_eq, Nat.mod_eq_of_lt bound]

theorem toNat_lsbShift (acc e : Word) :
    (lsbShift acc e).toNat = ((acc.toNat / 2 ^ 8) ^^^ e.toNat) % 2 ^ 32 := by
  have bound := (lsbShift acc e).isLt
  rw [lsbShift, BitVec.toNat_xor, BitVec.toNat_ushiftRight, Nat.shiftRight_eq_div_pow] at bound
  rw [lsbShift, BitVec.toNat_xor, BitVec.toNat_ushiftRight, Nat.shiftRight_eq_div_pow, Nat.mod_eq_of_lt bound]

theorem toNat_crcTbMsb (t : Byte → Word) (m : List Byte) :
    (crcTbMsb t m).toNat = crcTbMsbPseudo (fun i => (t (BitVec.ofNat 8 i)).toNat) (m.map BitVec.toNat) := by
  rw [crcTbMsb, crcTbMsbPseudo, List.foldl_map]
  refine (List.foldl_hom BitVec.toNat fun acc b => ?_).symm
  rw [tbMsbByte, toNat_msbShift, msbIndex_eq_ofNat]

theorem toNat_crcTbLsbRaw (t : Byte → Word) (m : List Byte) :
    (crcTbLsbRaw t m).toNat = crcTbLsbRawPseudo (fun i => (t (BitVec.ofNat 8 i)).toNat) (m.map BitVec.toNat) := by
  rw [crcTbLsbRaw, crcTbLsbRawPseudo, List.foldl_map]
  refine (List.foldl_hom BitVec.toNat fun acc b => ?_).symm
  rw [tbLsbByte, toNat_lsbShift, lsbIndex_eq_ofNat]

end Sys2Proof.Machine

/-! ## The table engines agree with the bitwise engines (42_table_engines.md R88, R93) -/

namespace Sys2Proof.Machine

open Sys2Proof.Claims

/-- A byte that the MSB engine feeds into the register value 0 leaves there the byte's generated entry. -/
theorem bwMsbByte_zero (b : Byte) : bwMsbByte 0 b = genMsb b :=
  (bwMsbByte_eq_rounds 0 b).trans (congrArg (rounds genMsbRound 8) BitVec.zero_xor)

/-- Message bits that repeat the register's top bits cancel them: no XOR of the polynomial follows any shift. -/
theorem msbBits_top {b : Byte} {k : Nat} {acc : Word} (hk : k ≤ 32)
    (top : ∀ j, j < k → b.getLsbD j = acc.getLsbD (32 - k + j)) : msbBits b k acc = acc <<< k := by
  induction k generalizing acc with
  | zero => simp [msbBits]
  | succ k ih =>
    have first : b.getLsbD k = acc.getLsbD 31 := by
      rw [top k (Nat.lt_succ_self k)]; congr 1; omega
    have rest : ∀ j, j < k → b.getLsbD j = (acc <<< 1).getLsbD (32 - k + j) := fun j hj => by
      have inWord : 32 - k + j < 32 := by omega
      have shifted : ¬32 - k + j < 1 := by omega
      have index : 32 - (k + 1) + j = 32 - k + j - 1 := by omega
      rw [top j (by omega), index, BitVec.getLsbD_shiftLeft]
      simp only [inWord, shifted, decide_true, decide_false, Bool.not_false, Bool.true_and]
    rw [msbBits, first, msbBit_top, ih (by omega) rest, ← BitVec.shiftLeft_add, Nat.add_comm]

/-- A message byte of the MSB engine is the XOR of the register's own top byte, which cancels, and the table index, which
alone meets the polynomial. -/
theorem bwMsbByte_eq_tbMsbByte (acc : Word) (b : Byte) : bwMsbByte acc b = tbMsbByte genMsb acc b := by
  have split : b = (acc >>> 24).setWidth 8 ^^^ msbIndex acc b := by
    rw [msbIndex, BitVec.setWidth_xor, ← BitVec.xor_assoc, BitVec.xor_self, BitVec.zero_xor]
    simp
  have cancelled : msbBits ((acc >>> 24).setWidth 8) 8 acc = acc <<< 8 := msbBits_top (by decide) fun j hj => by
    simp [hj]
  calc bwMsbByte acc b
      = msbBits ((acc >>> 24).setWidth 8 ^^^ msbIndex acc b) 8 (acc ^^^ 0) := by
        rw [← split]; exact congrArg (msbBits b 8) BitVec.xor_zero.symm
    _ = acc <<< 8 ^^^ bwMsbByte 0 (msbIndex acc b) := by rw [msbBits_xor, cancelled, bwMsbByte]
    _ = tbMsbByte genMsb acc b := by rw [bwMsbByte_zero, tbMsbByte, msbShift]

/-- `TBMSB`'s engine computes what `BWMSB`'s does. -/
theorem crcTbMsb_tblMsb (m : List Byte) : crcTbMsb (tabRead tblMsb) m = crcBwMsb m := by
  have same : tbMsbByte genMsb = bwMsbByte := funext₂ fun acc b => (bwMsbByte_eq_tbMsbByte acc b).symm
  rw [funext tabRead_tblMsb, crcTbMsb, same, crcBwMsb]

/-- A round of the LSB engine is linear. -/
theorem lsbRound_xor (x y : Word) : lsbRound (x ^^^ y) = lsbRound x ^^^ lsbRound y := by
  have shifted : (x ^^^ y) >>> 1 = x >>> 1 ^^^ y >>> 1 := BitVec.ushiftRight_xor_distrib x y 1
  simp only [lsbRound, BitVec.getLsbD_xor, shifted]
  cases x.getLsbD 0 <;> cases y.getLsbD 0 <;> simp [BitVec.xor_assoc, BitVec.xor_comm polyLsb]

theorem rounds_lsbRound_xor (k : Nat) (x y : Word) :
    rounds lsbRound k (x ^^^ y) = rounds lsbRound k x ^^^ rounds lsbRound k y := by
  induction k generalizing x y with
  | zero => rfl
  | succ k ih => rw [rounds, lsbRound_xor, ih, rounds, rounds]

/-- Rounds that test zero bits only shift. -/
theorem rounds_lsbRound_of_low_zero {k : Nat} {w : Word} (zero : ∀ j, j < k → w.getLsbD j = false) :
    rounds lsbRound k w = w >>> k := by
  induction k generalizing w with
  | zero => simp [rounds]
  | succ k ih =>
    have first : lsbRound w = w >>> 1 := by rw [lsbRound, zero 0 (Nat.succ_pos k)]; rfl
    have rest : ∀ j, j < k → (w >>> 1).getLsbD j = false := fun j hj => by
      rw [BitVec.getLsbD_ushiftRight]; exact zero _ (by omega)
    rw [rounds, first, ih rest, ← BitVec.shiftRight_add, Nat.add_comm]

/-- The register with a message byte fed in has two parts: all above the low byte, which is only shifted, and the table
index, which alone meets the polynomial. -/
theorem bwLsbByte_eq_tbLsbByte (acc : Word) (b : Byte) : bwLsbByte acc b = tbLsbByte genLsb acc b := by
  have split : acc ^^^ b.setWidth 32 = (acc >>> 8) <<< 8 ^^^ (lsbIndex acc b).setWidth 32 := by
    refine BitVec.eq_of_getLsbD_eq fun j hj => ?_
    by_cases low : j < 8
    · simp [lsbIndex, low, hj]
    · have above : 8 + (j - 8) = j := by omega
      simp [lsbIndex, low, hj, above]
  have shifted : rounds lsbRound 8 ((acc >>> 8) <<< 8) = acc >>> 8 := by
    rw [rounds_lsbRound_of_low_zero fun j hj => by simp [hj]]
    refine BitVec.eq_of_getLsbD_eq fun j hj => ?_
    simpa using BitVec.lt_of_getLsbD
  calc bwLsbByte acc b
      = rounds lsbRound 8 ((acc >>> 8) <<< 8 ^^^ (lsbIndex acc b).setWidth 32) := congrArg (rounds lsbRound 8) split
    _ = acc >>> 8 ^^^ genLsb (lsbIndex acc b) := by rw [rounds_lsbRound_xor, shifted]; rfl
    _ = tbLsbByte genLsb acc b := rfl

/-- `TBLSB`'s engine computes what `BWLSB`'s does. -/
theorem crcTbLsbRaw_tblLsb (m : List Byte) : crcTbLsbRaw (tabRead tblLsb) m = crcBwLsbRaw m := by
  have same : tbLsbByte genLsb = bwLsbByte := funext₂ fun acc b => (bwLsbByte_eq_tbLsbByte acc b).symm
  rw [funext tabRead_tblLsb, crcTbLsbRaw, same, crcBwLsbRaw]

end Sys2Proof.Machine

/-! ## `TBMSB` (R88) and `TBLSB` (R93) -/

namespace Sys2Proof.Machine

theorem exec_tbmsb_readable {s : State} {m : List Byte} (hr : s.MessageInRange) (hm : s.MessageIs m) :
    exec .tbmsb s = .next (complete (crcTbMsb (tabRead tblMsb) m) { s with acc := none }) := crcCommand_total hr hm

theorem exec_tbmsb_range {s : State} (hr : ¬s.MessageInRange) : exec .tbmsb s = .next (raise .operandRange s) :=
  crcCommand_range hr

theorem exec_tblsb_readable {s : State} {m : List Byte} (hr : s.MessageInRange) (hm : s.MessageIs m) :
    exec .tblsb s = .next (complete (rev 32 (crcTbLsbRaw (tabRead tblLsb) m)) { s with acc := none }) :=
  crcCommand_total hr hm

theorem exec_tblsb_range {s : State} (hr : ¬s.MessageInRange) : exec .tblsb s = .next (raise .operandRange s) :=
  crcCommand_range hr

end Sys2Proof.Machine

/-! ## Engines over the caller table (42_table_engines.md R89, R94) -/

namespace Sys2Proof.Machine

open Sys2Proof.Claims

/-- The indices that a table engine with index function `index` and register update `shift` selects over a message. The
selections of R87 and R92 are its two cases (`msbSelected_eq`, `lsbSelected_eq`). -/
def selected (index : Word → Byte → Byte) (shift : Word → Word → Word) (t : Byte → Word) :
    List Byte → Word → List Byte
  | [], _ => []
  | b :: m, acc => index acc b :: selected index shift t m (shift acc (t (index acc b)))

theorem msbSelected_eq (t : Byte → Word) (m : List Byte) (acc : Word) :
    msbSelected t m acc = selected msbIndex msbShift t m acc := by
  induction m generalizing acc with
  | nil => rfl
  | cons b m ih => exact congrArg _ (ih _)

theorem lsbSelected_eq (t : Byte → Word) (m : List Byte) (acc : Word) :
    lsbSelected t m acc = selected lsbIndex lsbShift t m acc := by
  induction m generalizing acc with
  | nil => rfl
  | cons b m ih => exact congrArg _ (ih _)

theorem foldAcc_append (upd : Word → Byte → Option Word) (m m' : List Byte) (a : Word) :
    foldAcc upd (m ++ m') a = (foldAcc upd m a).bind (foldAcc upd m') :=
  List.foldlM_append

/-- The byte update of a caller-table engine: none when the selected entry is unwritten. -/
def utabUpdate (s : State) (index : Word → Byte → Byte) (shift : Word → Word → Word) (acc : Word) (b : Byte) :
    Option Word :=
  (utabRead s (index acc b)).map (shift acc)

theorem execTbmsbU_eq (s : State) : exec .tbmsbU s = crcCommand (utabUpdate s msbIndex msbShift) id s := rfl

theorem execTblsbU_eq (s : State) : exec .tblsbU s = crcCommand (utabUpdate s lsbIndex lsbShift) (rev 32) s := rfl

section
variable {s : State} {index : Word → Byte → Byte} {shift : Word → Word → Word} {t : Byte → Word}

theorem utabUpdate_of_entryIs {acc : Word} {b : Byte} (h : EntryIs s t (index acc b)) :
    utabUpdate s index shift acc b = some (shift acc (t (index acc b))) :=
  congrArg (Option.map (shift acc)) h

/-- With the selected entries written, the engine runs to its end and computes what it computes over the whole table. -/
theorem foldAcc_utabUpdate {m : List Byte} {acc : Word} (h : ∀ i ∈ selected index shift t m acc, EntryIs s t i) :
    foldAcc (utabUpdate s index shift) m acc = some (m.foldl (fun a b => shift a (t (index a b))) acc) := by
  induction m generalizing acc with
  | nil => rfl
  | cons b m ih =>
    obtain ⟨first, rest⟩ := List.forall_mem_cons.1 h
    rw [foldAcc_cons, utabUpdate_of_entryIs first, Option.bind_some, ih rest, List.foldl_cons]

/-- A selected entry that is unwritten stops the engine, whatever message bytes follow. -/
theorem foldAcc_utabUpdate_unwritten {m m' : List Byte} {b : Byte} {acc a : Word}
    (h : foldAcc (utabUpdate s index shift) m acc = some a) (hu : utabRead s (index a b) = none) :
    foldAcc (utabUpdate s index shift) (m ++ b :: m') acc = none := by
  rw [foldAcc_append, h, Option.bind_some, foldAcc_cons, utabUpdate, hu, Option.map_none, Option.bind_none]

/-- With every entry written, a caller-table engine updates as the engine over the table `t`. -/
theorem utabUpdate_of_copy (h : ∀ i, EntryIs s t i) :
    utabUpdate s index shift = fun acc b => some (shift acc (t (index acc b))) :=
  funext₂ fun _ _ => utabUpdate_of_entryIs (h _)

end

theorem exec_tbmsbU_readable {s : State} {m : List Byte} {t : Byte → Word} (hr : s.MessageInRange)
    (hm : s.MessageIs m) (ht : ∀ i ∈ msbSelected t m 0, EntryIs s t i) :
    exec .tbmsbU s = .next (complete (crcTbMsb t m) { s with acc := none }) :=
  crcCommand_completes hr hm (foldAcc_utabUpdate (msbSelected_eq t m 0 ▸ ht))

theorem exec_tbmsbU_range {s : State} (hr : ¬s.MessageInRange) : exec .tbmsbU s = .next (raise .operandRange s) :=
  crcCommand_range hr

theorem exec_tbmsbU_unwritten {s : State} {m m' : List Byte} {b : Byte} {t : Byte → Word} (hr : s.MessageInRange)
    (hm : s.MessageIs (m ++ b :: m')) (ht : ∀ i ∈ msbSelected t m 0, EntryIs s t i)
    (hu : utabRead s (msbIndex (crcTbMsb t m) b) = none) : exec .tbmsbU s = .fault .unwrittenOperand :=
  crcCommand_entry_unwritten hr hm
    (foldAcc_utabUpdate_unwritten (foldAcc_utabUpdate (msbSelected_eq t m 0 ▸ ht)) hu)

theorem exec_tblsbU_readable {s : State} {m : List Byte} {t : Byte → Word} (hr : s.MessageInRange)
    (hm : s.MessageIs m) (ht : ∀ i ∈ lsbSelected t m 0, EntryIs s t i) :
    exec .tblsbU s = .next (complete (rev 32 (crcTbLsbRaw t m)) { s with acc := none }) :=
  crcCommand_completes hr hm (foldAcc_utabUpdate (lsbSelected_eq t m 0 ▸ ht))

theorem exec_tblsbU_range {s : State} (hr : ¬s.MessageInRange) : exec .tblsbU s = .next (raise .operandRange s) :=
  crcCommand_range hr

theorem exec_tblsbU_unwritten {s : State} {m m' : List Byte} {b : Byte} {t : Byte → Word} (hr : s.MessageInRange)
    (hm : s.MessageIs (m ++ b :: m')) (ht : ∀ i ∈ lsbSelected t m 0, EntryIs s t i)
    (hu : utabRead s (lsbIndex (crcTbLsbRaw t m) b) = none) : exec .tblsbU s = .fault .unwrittenOperand :=
  crcCommand_entry_unwritten hr hm
    (foldAcc_utabUpdate_unwritten (foldAcc_utabUpdate (lsbSelected_eq t m 0 ▸ ht)) hu)

/-- The caller table is a copy of `TBL_MSB`. -/
theorem exec_tbmsbU_copy {s : State} (h : ∀ i, EntryIs s (tabRead tblMsb) i) : exec .tbmsbU s = exec .tbmsb s := by
  rw [execTbmsbU_eq, utabUpdate_of_copy h]
  rfl

/-- The caller table is a copy of `TBL_LSB`. -/
theorem exec_tblsbU_copy {s : State} (h : ∀ i, EntryIs s (tabRead tblLsb) i) : exec .tblsbU s = exec .tblsb s := by
  rw [execTblsbU_eq, utabUpdate_of_copy h]
  rfl

theorem messageIs_nil {s : State} (h : s.opb = 0) : s.MessageIs [] :=
  ⟨by rw [h]; rfl, fun p b hp => by simp at hp⟩

theorem crcTbMsb_zero_table (m : List Byte) : crcTbMsb (fun _ => 0) m = 0 :=
  List.foldl_fixed' (fun _ => (by decide : msbShift 0 0 = 0)) m

end Sys2Proof.Machine

/-! ## The generator commands (R96, R97) and the table read commands (R98, R99) -/

namespace Sys2Proof.Machine

theorem indexOperand_of_eq {s : State} {i : Byte} (h : s.opa.toNat = i.toNat) : indexOperand s = .value i := by
  rw [indexOperand_valid (by omega), h, BitVec.ofNat_toNat, BitVec.setWidth_eq]

/-- A command that answers with a value of its table index, for every valid index. -/
theorem indexCommand_valid {s : State} {i : Byte} (f : Byte → Word) (h : s.opa.toNat = i.toNat) :
    withOperand (indexOperand s) s (fun i => .next (complete (f i) s)) = .next (complete (f i) s) := by
  rw [indexOperand_of_eq h, withOperand_value]

/-- A command that answers with a value of its table index raises OperandRange above 255. -/
theorem indexCommand_range {s : State} (f : Byte → Word) (h : 255 < s.opa.toNat) :
    withOperand (indexOperand s) s (fun i => .next (complete (f i) s)) = .next (raise .operandRange s) := by
  rw [indexOperand_invalid h, withOperand_error]

theorem exec_trdmsb_eq (s : State) : exec .trdmsb s = exec .tgenmsb s := by
  rw [exec, exec, execTrdmsb, execTgenmsb, funext tabRead_tblMsb]

theorem exec_trdlsb_eq (s : State) : exec .trdlsb s = exec .tgenlsb s := by
  rw [exec, exec, execTrdlsb, execTgenlsb, funext tabRead_tblLsb]

end Sys2Proof.Machine

/-! ## The statements of 42_table_engines.md, sections 1 to 4 -/

namespace Sys2Proof.Machine

open Sys2Proof.Claims

/-- Settles O19: each round and each byte step over bit vectors is the rule's over natural numbers, and the ROM listing
holds the generated entries. -/
theorem tableAlgorithmsFollowThePseudocode : Obligations.TableAlgorithmsFollowThePseudocode :=
  ⟨fun i => ⟨toNat_genMsb i, tabRead_tblMsb i⟩, fun i => ⟨toNat_genLsb i, tabRead_tblLsb i⟩,
    fun t m => ⟨toNat_crcTbMsb t m, toNat_crcTbLsbRaw t m⟩⟩

/-- Settles O20: the outcome is the range check's, and the table step over the generated entries is the bitwise step. -/
theorem tableMsbResult : Obligations.TableMsbResult := by
  refine ⟨rfl, fun _ _ => exec_tbmsb_readable, fun _ => exec_tbmsb_range, rfl, crcTbMsb_tblMsb, ?_, ?_, ?_⟩
  all_goals decide

/-- Settles O21: as for `TBMSB`; the agreement with the MSB result is the bitwise engines'. -/
theorem tableLsbResult : Obligations.TableLsbResult := by
  refine ⟨rfl, fun _ _ => exec_tblsb_readable, fun _ => exec_tblsb_range, by decide,
    fun m => congrArg (rev 32) (crcTbLsbRaw_tblLsb m),
    fun m => crcTbLsbRaw_tblLsb m ▸ rev_crcBwLsbRaw_eq_crcBwMsb_iff m, ?_, ?_, ?_, ?_⟩
  all_goals decide

/-- Settles O22: only the selected entries decide whether the engine ends, and the written ones are the table's. -/
theorem callerTableMsbResult : Obligations.CallerTableMsbResult := by
  refine ⟨rfl, fun _ _ _ => exec_tbmsbU_readable, fun _ => exec_tbmsbU_range, fun _ _ _ _ _ => exec_tbmsbU_unwritten,
    fun _ => exec_tbmsbU_copy, fun s hr h0 => ?_, crcTbMsb_zero_table, ?_, ?_⟩
  · exact exec_tbmsbU_readable (t := fun _ => 0) hr (messageIs_nil h0) (List.forall_mem_nil _)
  all_goals decide

/-- Settles O23: as for `TBMSB.U`, with the final reflection. -/
theorem callerTableLsbResult : Obligations.CallerTableLsbResult := by
  refine ⟨rfl, fun _ _ _ => exec_tblsbU_readable, fun _ => exec_tblsbU_range, fun _ _ _ _ _ => exec_tblsbU_unwritten,
    fun _ => exec_tblsbU_copy, ?_, ?_, ?_, ?_⟩
  all_goals decide

/-- Settles O26: the index check decides between the two outcomes. -/
theorem generatorCommandsResult : Obligations.GeneratorCommandsResult := by
  refine ⟨rfl, rfl, fun s i h => ⟨indexCommand_valid genMsb h, indexCommand_valid genLsb h⟩,
    fun s h => ⟨indexCommand_range genMsb h, indexCommand_range genLsb h⟩, ?_, ?_, ?_, ?_⟩
  all_goals decide

/-- Settles O27: as for the generator commands, over the ROM listing, which holds the generated entries. -/
theorem tableReadCommandsResult : Obligations.TableReadCommandsResult :=
  ⟨rfl, rfl, fun _ _ h => ⟨indexCommand_valid (tabRead tblMsb) h, indexCommand_valid (tabRead tblLsb) h⟩,
    fun _ h => ⟨indexCommand_range (tabRead tblMsb) h, indexCommand_range (tabRead tblLsb) h⟩,
    fun s => ⟨exec_trdmsb_eq s, exec_trdlsb_eq s⟩, by decide, by decide⟩

end Sys2Proof.Machine

/-! ## Which error a command raises, and that it changes `ERR` alone (60_exceptions.md R102 to R106) -/

namespace Sys2Proof.Machine

open Sys2Proof.Claims

/-- The error that a command raises from its operands: InvalidWidth for `REFLECT` (R104), OperandRange for a message or
an index out of range (R106), none for the constants. It reads neither `MSG` nor `UTAB`. -/
def operandError (i : Instr) (s : State) : Option CmdError :=
  match i with
  | .reflect => if 32 < s.opb.toNat then some .invalidWidth else none
  | .bwmsb | .tbmsb | .bwlsb | .tblsb | .tbmsbU | .tblsbU =>
    if s.msgBytes < s.opa.toNat + s.opb.toNat then some .operandRange else none
  | .tgenmsb | .tgenlsb | .trdmsb | .trdlsb => if 255 < s.opa.toNat then some .operandRange else none
  | .polymsb | .polylsb => none

theorem operandError_eq_invalidWidth_iff {i : Instr} {s : State} :
    operandError i s = some .invalidWidth ↔ i = .reflect ∧ 32 < s.opb.toNat := by
  cases i <;> simp [operandError]

theorem operandError_ne_illegalCommand (i : Instr) (s : State) : operandError i s ≠ some .illegalCommand := by
  cases i <;> simp [operandError]

theorem operandError_eq_operandRange_iff {i : Instr} {s : State} :
    operandError i s = some .operandRange ↔ (i ∈ crcCommands ∧ s.msgBytes < s.opa.toNat + s.opb.toNat) ∨
      (i ∈ indexCommands ∧ 255 < s.opa.toNat) := by
  cases i <;> simp [operandError, crcCommands, indexCommands]

/-- A command whose operands are in error raises that error, whatever `MSG` and `UTAB` hold. -/
theorem exec_of_operandError {i : Instr} {s : State} {e : CmdError} (h : operandError i s = some e) :
    exec i s = .next (raise e s) := by
  cases i with
  | reflect =>
    obtain ⟨hw, ⟨⟩⟩ := Option.ite_none_right_eq_some.1 h
    exact exec_reflect_invalid hw
  | tgenmsb | tgenlsb | trdmsb | trdlsb =>
    obtain ⟨hi, ⟨⟩⟩ := Option.ite_none_right_eq_some.1 h
    exact indexCommand_range _ hi
  | polymsb | polylsb => cases h
  | bwmsb | tbmsb | bwlsb | tblsb | tbmsbU | tblsbU =>
    obtain ⟨hr, ⟨⟩⟩ := Option.ite_none_right_eq_some.1 h
    exact crcCommand_range (Nat.not_le.2 hr)

/-- A CRC command whose message is in range and that goes on writes 0 to `ERR`. -/
theorem crcCommand_err_eq_zero {upd : Word → Byte → Option Word} {out : Word → Word} {s t : State}
    (hr : s.MessageInRange) (h : crcCommand upd out s = .next t) : t.err = 0 := by
  obtain ⟨m, a, -, -, -, hc⟩ | ⟨hn, -⟩ | hc := crcCommand_cases upd out s
  · cases hc.symm.trans h; rfl
  · exact absurd hr hn
  · cases hc.symm.trans h

/-- A command whose operands are in order and that goes on writes 0 to `ERR`. -/
theorem exec_err_eq_zero {i : Instr} {s t : State} (hn : operandError i s = none) (h : exec i s = .next t) :
    t.err = 0 := by
  cases i with
  | reflect =>
    have hw : s.opb.toNat ≤ 32 := by simpa [operandError] using hn
    cases (exec_reflect_valid hw).symm.trans h; rfl
  | tgenmsb | tgenlsb | trdmsb | trdlsb =>
    have hi : s.opa.toNat ≤ 255 := by simpa [operandError] using hn
    simp only [exec, execTgenmsb, execTgenlsb, execTrdmsb, execTrdlsb, indexOperand_valid hi, withOperand_value] at h
    cases h; rfl
  | polymsb | polylsb => cases h; rfl
  | bwmsb | tbmsb | bwlsb | tblsb | tbmsbU | tblsbU =>
    have hr : s.MessageInRange := by simpa [operandError, State.MessageInRange] using hn
    exact crcCommand_err_eq_zero hr h

/-- A command that goes on has raised its operands' error, or they raise none and `ERR` is 0. -/
theorem exec_next_cases {i : Instr} {s t : State} (h : exec i s = .next t) :
    (∃ e, operandError i s = some e ∧ t = raise e s) ∨ (operandError i s = none ∧ t.err = 0) := by
  cases ho : operandError i s with
  | some e => cases (exec_of_operandError ho).symm.trans h; exact .inl ⟨e, rfl, rfl⟩
  | none => exact .inr ⟨rfl, exec_err_eq_zero ho h⟩

theorem errorCode_inj {e e' : CmdError} : errorCode e = errorCode e' ↔ e = e' := by
  cases e <;> cases e' <;> decide

theorem errorCode_toNat_le (e : CmdError) : (errorCode e).toNat ≤ 3 := by cases e <;> decide

/-- The code that a command leaves in `ERR` tells which error its operands raised. -/
theorem exec_err_eq_errorCode_iff {i : Instr} {s t : State} (h : exec i s = .next t) (e : CmdError) :
    t.err = errorCode e ↔ operandError i s = some e := by
  obtain ⟨e', ho, rfl⟩ | ⟨ho, h0⟩ := exec_next_cases h
  · simp [ho, errorCode_inj]
  · exact iff_of_false (h0 ▸ (errorCode_ne_zero e).symm) (by simp [ho])

theorem exec_err_toNat_le {i : Instr} {s t : State} (h : exec i s = .next t) : t.err.toNat ≤ 3 := by
  obtain ⟨e, -, rfl⟩ | ⟨-, h0⟩ := exec_next_cases h
  · exact errorCode_toNat_le e
  · simp [h0]

/-- A command that leaves an error changes `ERR` alone. -/
theorem exec_eq_of_err_ne_zero {i : Instr} {s t : State} (h : exec i s = .next t) (ht : t.err ≠ 0) :
    t = { s with err := t.err } := by
  obtain ⟨e, -, rfl⟩ | ⟨-, h0⟩ := exec_next_cases h
  · rfl
  · exact absurd h0 ht

/-- A word written to `CMD` is no command and raises IllegalCommand, or runs the command that it encodes. -/
theorem runCommand_cases (c : Word) (s : State) :
    (c ∉ opcodeTable.map Prod.fst ∧ runCommand c s = .next (raise .illegalCommand { s with cmd := c })) ∨
    (c ∈ opcodeTable.map Prod.fst ∧ ∃ i, runCommand c s = exec i { s with cmd := c }) := by
  by_cases hc : c ∈ opcodeTable.map Prod.fst
  · obtain ⟨⟨_, i⟩, hi, rfl⟩ := List.mem_map.1 hc
    cases mem_opcodeTable_iff.1 hi
    exact .inr ⟨hc, i, runCommand_encode i s⟩
  · exact .inl ⟨hc, runCommand_illegal hc s⟩

end Sys2Proof.Machine

/-! ## The statements of 60_exceptions.md, section 1 -/

namespace Sys2Proof.Machine

open Sys2Proof.Claims

/-- Settles O29: the code in `ERR` is that of the operands' error, and 2 is left to the words that are no command. -/
theorem errorCodesExactly : Obligations.ErrorCodesExactly := by
  have ne_two : ∀ (i : Instr) (s t : State), exec i s = .next t → t.err ≠ 2 := fun i s t h h2 =>
    operandError_ne_illegalCommand i s ((exec_err_eq_errorCode_iff h .illegalCommand).1 h2)
  refine ⟨fun i s t h => ?_, fun c s t h => ?_⟩
  · have frame := exec_frame h
    refine ⟨(exec_err_eq_errorCode_iff h .invalidWidth).trans operandError_eq_invalidWidth_iff, ne_two i s t h,
      (exec_err_eq_errorCode_iff h .operandRange).trans operandError_eq_operandRange_iff, exec_err_toNat_le h,
      ?_, ?_, ?_⟩
    all_goals rw [frame]
  · have frame := runCommand_frame h
    obtain ⟨two_iff, le_three⟩ : (t.err = 2 ↔ c ∉ opcodeTable.map Prod.fst) ∧ t.err.toNat ≤ 3 := by
      obtain ⟨hc, hrun⟩ | ⟨hc, i, hrun⟩ := runCommand_cases c s
      · cases hrun.symm.trans h
        exact ⟨iff_of_true rfl hc, errorCode_toNat_le .illegalCommand⟩
      · have hexec := hrun.symm.trans h
        exact ⟨iff_of_false (ne_two i _ t hexec) (not_not.2 hc), exec_err_toNat_le hexec⟩
    refine ⟨two_iff, le_three, ?_, ?_, ?_⟩
    all_goals rw [frame]

/-- Settles O30: a non-zero `ERR` is a raised error's, from the operands or from a word that is no command, and raising
replaces `ERR` alone. -/
theorem errorsWriteOnlyErr : Obligations.ErrorsWriteOnlyErr := by
  refine ⟨fun _ _ _ => exec_eq_of_err_ne_zero, fun c s t h ht => ?_⟩
  obtain ⟨-, hrun⟩ | ⟨-, i, hrun⟩ := runCommand_cases c s
  · cases hrun.symm.trans h; rfl
  · exact exec_eq_of_err_ne_zero (hrun.symm.trans h) ht

/-- Settles O31: the operands' error is decided from `OPA`, `OPB` and the capacity, with the sum taken over natural
numbers. -/
theorem operandRangeComesBeforeAnyRead : Obligations.OperandRangeComesBeforeAnyRead := by
  have range : ∀ i ∈ crcCommands, ∀ s : State, s.msgBytes < s.opa.toNat + s.opb.toNat →
      exec i s = .next { s with err := 3 } := fun i hi s hr =>
    exec_of_operandError (operandError_eq_operandRange_iff.2 (.inl ⟨hi, hr⟩))
  refine ⟨range, fun i hi s h => ?_, fun i hi s hcap ha hb => range i hi s ?_⟩
  · exact exec_of_operandError (operandError_eq_operandRange_iff.2 (.inr ⟨hi, h⟩))
  · have hsum : s.opa.toNat + s.opb.toNat = 0xFFFFFFFF + 2 := by rw [ha, hb]; rfl
    omega

end Sys2Proof.Machine

/-! ## The statement of 70_reset_and_hazards.md on reset -/

namespace Sys2Proof.Machine

@[simp] theorem readReg_platformReset (r : HostReg) (s : State) : readReg r (platformReset s) = 0 := by
  cases r <;> rfl

@[simp] theorem platformReset_acc (s : State) : (platformReset s).acc = none := rfl
@[simp] theorem platformReset_msg (s : State) : (platformReset s).msg = [] := rfl
@[simp] theorem platformReset_utab (s : State) : (platformReset s).utab = [] := rfl

/-- Settles O39: the step of a reset gives the reset state, whose buffers hold nothing, and the frame of a command holds
`CMD`, its operands and both buffers. -/
theorem resetClearsRegistersAndBuffers : Obligations.ResetClearsRegistersAndBuffers := by
  refine ⟨fun s rest h => ⟨_, step_reset h, ?_⟩, fun i s t h => ?_⟩
  · simp [polyMsb, polyLsb_eq]
  · rw [exec_frame h]
    exact ⟨rfl, rfl, rfl, fun _ => rfl, fun _ => rfl⟩

end Sys2Proof.Machine

/-! ## Decode and encode (30_encoding.md R49 to R54), and the opcode table -/

namespace Sys2Proof.Machine

open Sys2Proof.Claims

/-- A number of 32 bits is read as the command word it is (log entry 14). -/
theorem decodeTableWord_eq_some_iff {w : Nat} {i : Instr} (hw : w < 2 ^ 32) :
    decodeTableWord 32 w = some i ↔ decode (BitVec.ofNat 32 w) = .instr i := by
  rw [decodeTableWord, Nat.mod_eq_of_lt hw, if_pos hw]
  cases decode (BitVec.ofNat 32 w) <;> simp

/-- Settles O3: decoding matches the word's fields against the command's, and a word is its fields put together. -/
theorem decodeEncodeAgree : Obligations.DecodeEncodeAgree :=
  ⟨fun _ _ => decode_eq_instr_iff, fun i => ⟨wf_iff_exists_fields.2 ⟨i, fieldsOf_toWord i.fields⟩, rfl⟩⟩

/-- Settles O2: the table's words are the encodings of its commands. -/
theorem opcodeTableWordsDecode : Obligations.OpcodeTableWordsDecode := by
  rintro ⟨c, i⟩ hp
  have hc : c = encode i := mem_opcodeTable_iff.1 hp
  have hd : decode c = .instr i := decode_eq_instr_iff.2 hc
  refine ⟨hd, (decodeTableWord_eq_some_iff c.isLt).2 ?_, hc.symm⟩
  rwa [BitVec.ofNat_toNat, BitVec.setWidth_eq]

end Sys2Proof.Machine

/-! ## What a step can come to -/

namespace Sys2Proof.Machine

open Sys2Proof.Claims

/-- All that a step that goes on can be: waiting, a read's answer, a host write, or a reset. -/
theorem step_next_cases {s t : State} (h : step s = .next t) :
    t = s ∨ (∃ rest v, t = answer v (taken s rest)) ∨
    (∃ addr w v rest, hostWrite addr w v (taken s rest) = .next t) ∨
    ∃ rest, t = platformReset (taken s rest) := by
  cases hp : s.pending with
  | nil => exact .inl (Host.Outcome.next.inj ((step_idle hp).symm.trans h)).symm
  | cons e rest =>
    match e with
    | .access (.read addr w) =>
      obtain ⟨v, hv⟩ := hostRead_next ((step_read hp).symm.trans h)
      exact .inr (.inl ⟨rest, v, hv⟩)
    | .access (.write addr w v) => exact .inr (.inr (.inl ⟨addr, w, v, rest, (step_write hp).symm.trans h⟩))
    | .reset => exact .inr (.inr (.inr ⟨rest, (Host.Outcome.next.inj ((step_reset hp).symm.trans h)).symm⟩))

/-- A command leaves `ACC` as it is, or it is a CRC command and leaves it without a value (R17, R26). -/
theorem exec_acc_cases {i : Instr} {s t : State} (h : exec i s = .next t) :
    t.acc = s.acc ∨ (i ∈ crcCommands ∧ t.acc = none) := by
  obtain ⟨e, he⟩ | ⟨v, he⟩ | ⟨-, he⟩ := exec_cases i s
  · cases he.symm.trans h
    exact .inl rfl
  · cases he.symm.trans h
    by_cases hi : i ∈ crcCommands
    · exact .inr ⟨hi, if_pos hi⟩
    · exact .inl (if_neg hi)
  · cases he.symm.trans h

/-- What a command that a `CMD` write runs leaves in `ERR` and `ACC`. -/
theorem runCommand_err_acc {c : Word} {s t : State} (h : runCommand c s = .next t) :
    t.err.toNat ≤ 3 ∧ (t.acc = s.acc ∨ t.acc = none) := by
  obtain ⟨-, hrun⟩ | ⟨-, i, hrun⟩ := runCommand_cases c s
  · cases hrun.symm.trans h
    exact ⟨errorCode_toNat_le .illegalCommand, .inl rfl⟩
  · have hexec := hrun.symm.trans h
    exact ⟨exec_err_toNat_le hexec, (exec_acc_cases hexec).imp_right And.right⟩

end Sys2Proof.Machine

/-! ## The invariant (10_state.md R17, R19, R24 to R28) -/

namespace Sys2Proof.Machine

open Sys2Proof.Claims

theorem State.Inv.resetWith {n : Nat} (h1 : 1 ≤ n) (hn : n ≤ 0xFFFF0000) : (State.resetWith n).Inv :=
  ⟨⟨h1, hn⟩, ⟨rfl, rfl⟩, ⟨rfl, rfl⟩, Nat.zero_le 3, rfl⟩

/-- The capacity that the spec leaves open is one of those it allows (R5). -/
theorem config_msgBytes_bounds : 1 ≤ Config.msgBytes ∧ Config.msgBytes ≤ 0xFFFF0000 := by
  unfold Config.msgBytes
  omega

/-- The invariant says nothing of the host's list and the bus answer. -/
theorem State.Inv.taken {s : State} (h : s.Inv) (rest : List HostEvent) : (taken s rest).Inv :=
  ⟨h.capacity, h.msgForm, h.utabForm, h.errProduced, h.accNone⟩

theorem State.Inv.answer {s : State} (h : s.Inv) (v : Word) : (answer v s).Inv :=
  ⟨h.capacity, h.msgForm, h.utabForm, h.errProduced, h.accNone⟩

theorem State.Inv.runCommand {c : Word} {s t : State} (h : s.Inv) (ht : runCommand c s = .next t) : t.Inv := by
  obtain ⟨herr, hacc⟩ := runCommand_err_acc ht
  have hnone : t.acc = none := hacc.elim (·.trans h.accNone) id
  rw [runCommand_frame ht]
  exact ⟨h.capacity, h.msgForm, h.utabForm, herr, hnone⟩

/-- A host write keeps the invariant: an entry or a byte is written inside its buffer, in canonical form. -/
theorem State.Inv.hostWrite {addr : Word} {w : Width} {v : Word} {s t : State} (h : s.Inv)
    (ht : hostWrite addr w v s = .next t) : t.Inv := by
  obtain ⟨-, -, hrun⟩ | ⟨-, -, rfl⟩ | ⟨-, -, rfl⟩ | ⟨-, -, -, rfl⟩ | ⟨i, hi, -, -, rfl⟩ | ⟨a, ha, -, -, rfl⟩ :=
    hostWrite_next ht
  · exact h.runCommand hrun
  · exact ⟨h.capacity, h.msgForm, h.utabForm, h.errProduced, h.accNone⟩
  · exact ⟨h.capacity, h.msgForm, h.utabForm, h.errProduced, h.accNone⟩
  · exact h
  · have hu := h.utabForm
    exact ⟨h.capacity, h.msgForm, ⟨Memory.write_wf hu.1 i v, Memory.write_below hu.2 hi v⟩, h.errProduced, h.accNone⟩
  · have hm := h.msgForm
    exact ⟨h.capacity, ⟨Memory.write_wf hm.1 a _, Memory.write_below hm.2 ha _⟩, h.utabForm, h.errProduced, h.accNone⟩

theorem hostWrite_msgBytes {addr : Word} {w : Width} {v : Word} {s t : State}
    (ht : hostWrite addr w v s = .next t) : t.msgBytes = s.msgBytes := by
  obtain ⟨-, -, hrun⟩ | ⟨-, -, rfl⟩ | ⟨-, -, rfl⟩ | ⟨-, -, -, rfl⟩ | ⟨_, -, -, -, rfl⟩ | ⟨_, -, -, -, rfl⟩ :=
    hostWrite_next ht
  · rw [runCommand_frame hrun]
  all_goals rfl

/-- Settles O37: an event is a read, which answers only, a write, which keeps the form of its buffer, or a reset to a state
with the same capacity. -/
theorem invariantKeptByEveryStep : Obligations.InvariantKeptByEveryStep := by
  intro s t h ht
  obtain rfl | ⟨rest, v, rfl⟩ | ⟨addr, w, v, rest, hw⟩ | ⟨rest, rfl⟩ := step_next_cases ht
  · exact ⟨h, rfl⟩
  · exact ⟨(h.taken rest).answer v, rfl⟩
  · have capacity := hostWrite_msgBytes hw
    exact ⟨(h.taken rest).hostWrite hw, capacity⟩
  · obtain ⟨h1, hn⟩ := h.capacity
    exact ⟨(State.Inv.resetWith h1 hn).taken rest, rfl⟩

/-- Settles O36: nothing is written after reset, and the open capacity is in its bounds. -/
theorem invariantHoldsAtReset : Obligations.InvariantHoldsAtReset :=
  ⟨.resetWith config_msgBytes_bounds.1 config_msgBytes_bounds.2, fun _ => .resetWith⟩

end Sys2Proof.Machine

/-! ## Frames and unwritten locations (10_state.md R28, 20_memory.md R43) -/

namespace Sys2Proof.Machine

open Sys2Proof.Claims

/-- Settles O33: a command changes `RESULT`, `ERR` and `ACC` only, and `ACC` only as a CRC command. -/
theorem commandsWriteOnlyResultErrAcc : Obligations.CommandsWriteOnlyResultErrAcc := by
  intro i s t h
  have acc := exec_acc_cases h
  have accKept : i ∉ crcCommands → t.acc = s.acc := fun hi => acc.resolve_right fun hc => hi hc.1
  rw [exec_frame h]
  exact ⟨rfl, rfl, rfl, rfl, rfl, rfl, fun _ => rfl, fun _ => rfl, accKept, acc.imp_right And.right⟩

/-- The six CRC commands are the shared steps with some update and some delivery, which keeps the initial 0. -/
theorem exec_eq_crcCommand_of_mem {i : Instr} (hi : i ∈ crcCommands) (s : State) :
    ∃ upd out, out 0 = 0 ∧ exec i s = crcCommand upd out s := by
  have reflected : rev 32 0 = 0 := by decide
  simp only [crcCommands, List.mem_cons, List.not_mem_nil, or_false] at hi
  obtain rfl | rfl | rfl | rfl | rfl | rfl := hi
  · exact ⟨_, _, rfl, rfl⟩
  · exact ⟨_, _, rfl, rfl⟩
  · exact ⟨_, _, rfl, rfl⟩
  · exact ⟨_, _, reflected, rfl⟩
  · exact ⟨_, _, reflected, rfl⟩
  · exact ⟨_, _, reflected, rfl⟩

theorem hostRead_msg_unwritten {a : Nat} {addr : Word} {s : State} (hn : a < s.msgBytes)
    (ha : addr.toNat = 0x10000 + a) (hu : Memory.read s.msg a = none) :
    hostRead addr .byte s = .fault .unwrittenOperand := by
  simp only [hostRead, target_msg hn ha, hu]

theorem hostRead_utab_unwritten {i : Nat} {addr : Word} {s : State} (hi : i < 256)
    (ha : addr.toNat = 0x400 + 4 * i) (hu : Memory.read s.utab i = none) :
    hostRead addr .word s = .fault .unwrittenOperand := by
  simp only [hostRead, target_utab hi ha, hu]

/-- Settles O32: the message operand of every CRC command is unwritten, and the map reaches the unwritten location. -/
theorem unwrittenLocationsFault : Obligations.UnwrittenLocationsFault := by
  refine ⟨fun i hi s p hr hp hu => ?_, fun s a addr rest ha haddr hu h => ?_, fun s i addr rest hi haddr hu h => ?_⟩
  · obtain ⟨upd, out, -, he⟩ := exec_eq_crcCommand_of_mem hi s
    exact he.trans (crcCommand_byte_unwritten hr hp hu)
  · exact (step_read h).trans (hostRead_msg_unwritten ha haddr hu)
  · exact (step_read h).trans (hostRead_utab_unwritten hi haddr hu)

end Sys2Proof.Machine

/-! ## Which steps stop (60_exceptions.md R107) -/

namespace Sys2Proof.Machine

open Sys2Proof.Claims

theorem exec_ne_refused (i : Instr) (s : State) (r : Refusal) : exec i s ≠ .refused r := by
  obtain ⟨e, he⟩ | ⟨v, he⟩ | ⟨-, he⟩ := exec_cases i s <;> simp [he]

theorem runCommand_ne_refused (c : Word) (s : State) (r : Refusal) : runCommand c s ≠ .refused r := by
  obtain ⟨-, hrun⟩ | ⟨-, i, hrun⟩ := runCommand_cases c s
  · simp [hrun]
  · exact hrun ▸ exec_ne_refused i _ r

theorem hostRead_ne_refused (addr : Word) (w : Width) (s : State) (r : Refusal) : hostRead addr w s ≠ .refused r := by
  unfold hostRead
  split
  case h_3 | h_4 => split <;> simp
  all_goals simp

theorem hostWrite_ne_refused (addr : Word) (w : Width) (v : Word) (s : State) (r : Refusal) :
    hostWrite addr w v s ≠ .refused r := by
  unfold hostWrite
  split
  case h_1 reg _ =>
    cases reg with
    | cmd => exact runCommand_ne_refused v s r
    | opa | opb | result | status => simp [writeReg]
  all_goals simp

theorem step_ne_refused (s : State) (r : Refusal) : step s ≠ .refused r := by
  cases hp : s.pending with
  | nil => simp [step_idle hp]
  | cons e rest =>
    match e with
    | .access (.read addr w) => exact step_read hp ▸ hostRead_ne_refused addr w _ r
    | .access (.write addr w v) => exact step_write hp ▸ hostWrite_ne_refused addr w v _ r
    | .reset => simp [step_reset hp]

/-- Settles O51: no access refuses, and a command raises an error, completes, or is a CRC command that stops. -/
theorem stepsStopOnlyByTheTwoFaults : Obligations.StepsStopOnlyByTheTwoFaults := by
  refine ⟨step_ne_refused, fun _ => step_idle, fun i s => ?_⟩
  obtain ⟨e, he⟩ | ⟨v, he⟩ | stop := exec_cases i s
  · exact .inl ⟨_, he⟩
  · exact .inl ⟨_, he⟩
  · exact .inr stop

end Sys2Proof.Machine

/-! ## `ERR` and the word in `CMD` (10_state.md R19, R21) -/

namespace Sys2Proof.Machine

open Sys2Proof.Claims

/-- Code `e` in `ERR` is explained by the word `c` in `CMD` (R103). -/
def ErrExplained (c : Word) (e : BitVec 4) : Prop :=
  (e = 1 → c = 0x00000001) ∧ (e = 2 → c ∉ opcodeTable.map Prod.fst) ∧
  (e = 3 → ∃ i, (c, i) ∈ opcodeTable ∧ (i ∈ crcCommands ∨ i ∈ indexCommands))

theorem errExplained_zero (c : Word) : ErrExplained c 0 :=
  ⟨fun h => absurd h (by decide), fun h => absurd h (by decide), fun h => absurd h (by decide)⟩

theorem errExplained_two {c : Word} (hc : c ∉ opcodeTable.map Prod.fst) : ErrExplained c 2 :=
  ⟨fun h => absurd h (by decide), fun _ => hc, fun h => absurd h (by decide)⟩

/-- A command's error is explained by its own word. -/
theorem exec_errExplained {i : Instr} {s t : State} (h : exec i s = .next t) : ErrExplained (encode i) t.err := by
  refine ⟨fun h1 => ?_, fun h2 => ?_, fun h3 => ⟨i, mem_opcodeTable_iff.2 rfl, ?_⟩⟩
  · obtain ⟨rfl, -⟩ := operandError_eq_invalidWidth_iff.1 ((exec_err_eq_errorCode_iff h .invalidWidth).1 h1)
    rfl
  · exact absurd ((exec_err_eq_errorCode_iff h .illegalCommand).1 h2) (operandError_ne_illegalCommand i s)
  · have range := operandError_eq_operandRange_iff.1 ((exec_err_eq_errorCode_iff h .operandRange).1 h3)
    exact range.imp And.left And.left

theorem runCommand_errExplained {c : Word} {s t : State} (h : runCommand c s = .next t) :
    ErrExplained t.cmd t.err := by
  have hcmd : t.cmd = c := congrArg State.cmd (runCommand_frame h)
  rw [hcmd]
  by_cases hc : ∃ i, c = encode i
  · obtain ⟨i, rfl⟩ := hc
    exact exec_errExplained ((runCommand_encode i s).symm.trans h)
  · have illegal : c ∉ opcodeTable.map Prod.fst := fun hmem => by
      obtain ⟨⟨_, i⟩, hi, rfl⟩ := List.mem_map.1 hmem
      exact hc ⟨i, mem_opcodeTable_iff.1 hi⟩
    cases (runCommand_illegal illegal s).symm.trans h
    exact errExplained_two illegal

/-- A host write keeps `CMD` and `ERR`, or it runs a command, which explains its error. -/
theorem hostWrite_errExplained {addr : Word} {w : Width} {v : Word} {s t : State} (hs : ErrExplained s.cmd s.err)
    (h : hostWrite addr w v s = .next t) : ErrExplained t.cmd t.err := by
  obtain ⟨-, -, hrun⟩ | ⟨-, -, rfl⟩ | ⟨-, -, rfl⟩ | ⟨-, -, -, rfl⟩ | ⟨_, -, -, -, rfl⟩ | ⟨_, -, -, -, rfl⟩ :=
    hostWrite_next h
  · exact runCommand_errExplained hrun
  all_goals exact hs

/-- Settles O38: of the events only a host write can set `ERR` to an error, by running a command. -/
theorem errIsExplainedByCmd : Obligations.ErrIsExplainedByCmd := by
  refine ⟨errExplained_zero 0, fun s t hs h => ?_⟩
  change ErrExplained t.cmd t.err
  obtain rfl | ⟨rest, v, rfl⟩ | ⟨addr, w, v, rest, hw⟩ | ⟨rest, rfl⟩ := step_next_cases h
  · exact hs
  · exact hs
  · exact hostWrite_errExplained (s := taken s rest) hs hw
  · exact errExplained_zero 0

end Sys2Proof.Machine

/-! ## Commands whose operands are ready (70_reset_and_hazards.md R124) -/

namespace Sys2Proof.Machine

open Sys2Proof.Claims

/-- A buffer whose first `n` locations from `k` on are written holds a value at each, read from one function. -/
theorem exists_read_eq_some {α : Type} (v₀ : α) {mem : Memory α} {k n : Nat}
    (h : ∀ p, p < n → ∃ v, Memory.read mem (k + p) = some v) :
    ∃ f : Nat → α, ∀ p, p < n → Memory.read mem (k + p) = some (f p) := by
  refine ⟨fun p => (Memory.read mem (k + p)).getD v₀, fun p hp => ?_⟩
  obtain ⟨v, hv⟩ := h p hp
  simp only [hv, Option.getD_some]

theorem exists_messageIs {s : State}
    (h : ∀ p, p < s.opb.toNat → ∃ b, Memory.read s.msg (s.opa.toNat + p) = some b) : ∃ m, s.MessageIs m := by
  obtain ⟨f, hf⟩ := exists_read_eq_some 0 h
  refine ⟨(List.range s.opb.toNat).map f, by simp, fun p b hb => ?_⟩
  obtain ⟨q, hq, rfl⟩ := Option.map_eq_some_iff.1 (List.getElem?_map ▸ hb)
  obtain ⟨hp, rfl⟩ := List.getElem?_eq_some_iff.1 hq
  simpa using hf p (by simpa using hp)

theorem exists_entryIs {s : State} (h : ∀ j, j < 256 → ∃ v, Memory.read s.utab j = some v) :
    ∃ t, ∀ i, EntryIs s t i := by
  obtain ⟨f, hf⟩ := exists_read_eq_some (mem := s.utab) (k := 0) 0 (by simpa using h)
  exact ⟨fun i => f i.toNat, fun i => by rw [EntryIs]; simpa using hf i.toNat i.isLt⟩

/-- A ready CRC command with a total update completes. -/
theorem crcCommand_ready {upd : Word → Byte → Word} {out : Word → Word} {s : State} (hr : s.MessageInRange)
    (h : ∀ p, p < s.opb.toNat → ∃ b, Memory.read s.msg (s.opa.toNat + p) = some b) :
    ∃ v, crcCommand (fun acc b => some (upd acc b)) out s = .next (complete v { s with acc := none }) := by
  obtain ⟨m, hm⟩ := exists_messageIs h
  exact ⟨_, crcCommand_total hr hm⟩

/-- A ready CRC command over the caller table completes. -/
theorem crcCommand_utabUpdate_ready (index : Word → Byte → Byte) (shift : Word → Word → Word) (out : Word → Word)
    {s : State} (hr : s.MessageInRange)
    (h : ∀ p, p < s.opb.toNat → ∃ b, Memory.read s.msg (s.opa.toNat + p) = some b)
    (ht : ∀ j, j < 256 → ∃ v, Memory.read s.utab j = some v) :
    ∃ v, crcCommand (utabUpdate s index shift) out s = .next (complete v { s with acc := none }) := by
  obtain ⟨t, hcopy⟩ := exists_entryIs ht
  rw [utabUpdate_of_copy hcopy]
  exact crcCommand_ready hr h

/-- A CRC command over the empty message delivers the initial `ACC`. -/
theorem crcCommand_empty {upd : Word → Byte → Option Word} {out : Word → Word} {s : State} (hr : s.MessageInRange)
    (h0 : s.opb = 0) : crcCommand upd out s = .next (complete (out 0) { s with acc := none }) :=
  crcCommand_completes hr (messageIs_nil h0) rfl

theorem exists_byte_of_le {v : Word} (h : v.toNat ≤ 255) : ∃ i : Byte, v.toNat = i.toNat :=
  ⟨BitVec.ofNat 8 v.toNat, by rw [BitVec.toNat_ofNat]; omega⟩

theorem exec_ready {i : Instr} {s : State} (h : Ready i s) :
    ∃ v, exec i s = .next (complete v { s with acc := if i ∈ crcCommands then none else s.acc }) := by
  cases i with
  | reflect => exact ⟨_, exec_reflect_valid h⟩
  | tgenmsb | tgenlsb | trdmsb | trdlsb =>
    obtain ⟨index, hindex⟩ := exists_byte_of_le h
    exact ⟨_, indexCommand_valid _ hindex⟩
  | polymsb | polylsb => exact ⟨_, rfl⟩
  | bwmsb | tbmsb | bwlsb | tblsb =>
    obtain ⟨hr, hm⟩ := h
    exact crcCommand_ready hr hm
  | tbmsbU | tblsbU =>
    obtain ⟨hr, hm, ht⟩ := h
    exact crcCommand_utabUpdate_ready _ _ _ hr hm ht

/-- Settles O35: a ready operand is a value, so the command delivers; after reset the message is empty. -/
theorem readyCommandsComplete : Obligations.ReadyCommandsComplete := by
  refine ⟨fun i s h => exec_ready h, fun i hi n => ?_⟩
  obtain ⟨upd, out, hout, he⟩ := exec_eq_crcCommand_of_mem hi (State.resetWith n)
  have inRange : (State.resetWith n).MessageInRange := Nat.zero_le n
  rw [he, crcCommand_empty inRange rfl, hout]
  rfl

end Sys2Proof.Machine

/-! ## Reset, register reads and the step of a command (10_state.md R27, 20_memory.md R33, 30_encoding.md R48) -/

namespace Sys2Proof.Machine

open Sys2Proof.Claims

/-- Settles O40: the registers are 0 and the buffers empty, and the ROM listing holds every generated entry. -/
theorem stateAfterReset : Obligations.StateAfterReset :=
  ⟨rfl, rfl, rfl, rfl, rfl, rfl, rfl, polyLsb_eq, fun i => ⟨tabRead_tblMsb i, tabRead_tblLsb i⟩,
    fun _ => rfl, fun _ => rfl⟩

/-- A host read of a register answers the whole register. -/
theorem hostRead_register (r : HostReg) (s : State) :
    hostRead r.offset .word s = .next (answer (readReg r s) s) := by
  cases r <;> rfl

/-- `STATUS` is `ERR` with zeros above it (R19). -/
theorem statusWord_eq (s : State) : statusWord s = BitVec.ofNat 32 s.err.toNat := (BitVec.ofNat_toNat 32 s.err).symm

/-- Settles O42: a register's offset reaches that register, so the step answers it. -/
theorem registersReadWhole : Obligations.RegistersReadWhole := by
  refine ⟨fun s rest h => ?_, fun s rest h => ?_, fun s rest h => ?_, fun s rest h => ?_, fun s rest h => ?_⟩
  · exact (step_read h).trans (hostRead_register .cmd _)
  · exact (step_read h).trans (hostRead_register .opa _)
  · exact (step_read h).trans (hostRead_register .opb _)
  · exact (step_read h).trans (hostRead_register .result _)
  · rw [← statusWord_eq]
    exact (step_read h).trans (hostRead_register .status _)

theorem runCommand_of_decode {c : Word} {i : Instr} (h : decode c = .instr i) (s : State) :
    runCommand c s = exec i { s with cmd := c } := by
  cases decode_eq_instr_iff.1 h
  exact runCommand_encode i s

/-- Settles O41: the host's next write to `CMD`, its own or the one placed in front, runs the decoded command. -/
theorem stepRunsTheDecodedCommand : Obligations.StepRunsTheDecodedCommand := by
  refine ⟨fun s c rest i h hd => (step_command h).trans (runCommand_of_decode hd _), fun s w i hw hd => ?_⟩
  have placed : (s.withFetchWord 32 w).pending = .access (.write 0x0 .word (BitVec.ofNat 32 w)) :: s.pending := by
    rw [State.withFetchWord, issueCommand_pending, Nat.mod_eq_of_lt hw]
  exact (step_command placed).trans (runCommand_of_decode ((decodeTableWord_eq_some_iff hw).1 hd) _)

end Sys2Proof.Machine

/-! ## Statements and accesses in sequence (30_encoding.md R57, R59, 20_memory.md R42, R44) -/

namespace Sys2Proof.Machine

open Sys2Proof.Claims

theorem target_register (n : Nat) (r : HostReg) : target n r.offset .word = .register r := by
  cases r <;> rfl

/-- Settles O48: the address of a byte in the largest buffer and of the last entry still fits the bus. -/
theorem statementsReachTheirLocations : Obligations.StatementsReachTheirLocations := by
  refine ⟨rfl, rfl, rfl, rfl, rfl, fun n hn => ?_⟩
  have byte : ∀ a, a < n → (BitVec.ofNat 32 (0x10000 + a)).toNat = 0x10000 + a ∧
      target n (BitVec.ofNat 32 (0x10000 + a)) .byte = .msg a := fun a ha => by
    have haddr : (BitVec.ofNat 32 (0x10000 + a)).toNat = 0x10000 + a := by
      rw [BitVec.toNat_ofNat]; omega
    exact ⟨haddr, target_msg ha haddr⟩
  have entry : ∀ i, i < 256 → (BitVec.ofNat 32 (0x400 + 4 * i)).toNat = 0x400 + 4 * i ∧
      target n (BitVec.ofNat 32 (0x400 + 4 * i)) .word = .utab i := fun i hi => by
    have haddr : (BitVec.ofNat 32 (0x400 + 4 * i)).toNat = 0x400 + 4 * i := by
      rw [BitVec.toNat_ofNat]; omega
    exact ⟨haddr, target_utab hi haddr⟩
  refine ⟨fun r v => ⟨rfl, target_register n r⟩, fun r => rfl, fun a v h => ⟨_, ?_, byte a (of_decide_eq_true h)⟩,
    fun a h => ⟨_, rfl, byte a (of_decide_eq_true h)⟩, fun i v h => ⟨_, rfl, entry i (of_decide_eq_true h)⟩,
    fun i h => ⟨_, rfl, entry i (of_decide_eq_true h)⟩⟩
  rw [BitVec.ofNat_toNat]
  rfl

theorem runSteps_two {s t : State} (h : step s = .next t) : runSteps 2 s = step t := by
  rw [runSteps, h]
  exact runSteps_one t

/-- Settles O50: the first step ends the command, which keeps the host's list, both buffers and the capacity, and the
second step takes the next access. -/
theorem commandIsCompleteBeforeTheNextAccess : Obligations.CommandIsCompleteBeforeTheNextAccess := by
  intro s t c e rest hp hrun
  have second : runSteps 2 s = step t := runSteps_two ((step_command hp).trans hrun)
  have frame := runCommand_frame hrun
  have next : t.pending = .access e :: rest := congrArg State.pending frame
  have capacity : t.msgBytes = s.msgBytes := (congrArg State.msgBytes frame :)
  have msg : t.msg = s.msg := (congrArg State.msg frame :)
  have utab : t.utab = s.utab := (congrArg State.utab frame :)
  obtain ⟨-, -, -, readResult, readStatus⟩ := registersReadWhole
  obtain ⟨-, -, writeOpa, writeOpb, writeCmd⟩ := registerWrites
  rw [second]
  refine ⟨?_, ?_, ?_, ?_, ?_, ?_, ?_⟩
  · rintro rfl
    exact readResult t rest next
  · rintro rfl
    exact readStatus t rest next
  · rintro v rfl
    exact writeOpa t v rest next
  · rintro v rfl
    exact writeOpb t v rest next
  · rintro a addr v ha haddr rfl
    obtain ⟨write, -⟩ := messageBufferAccess t a addr rest (capacity ▸ ha) haddr
    exact msg ▸ write v next
  · rintro i addr v hi haddr rfl
    obtain ⟨write, -⟩ := callerTableAccess.1 t i addr rest hi haddr
    exact utab ▸ write v next
  · rintro c' rfl
    exact writeCmd t c' rest next

end Sys2Proof.Machine

/-! ## The laws of reflection (40_reflector_and_constants.md R63) -/

namespace Sys2Proof.Machine

open Sys2Proof.Claims

/-- Reflecting twice keeps the low `w` bits and clears the others. -/
theorem getLsbD_rev_rev {w : Nat} (v : Word) (hw : w ≤ 32) (j : Nat) :
    (rev w (rev w v)).getLsbD j = (decide (j < w) && v.getLsbD j) := by
  rw [getLsbD_rev _ hw, getLsbD_rev _ hw]
  by_cases hj : j < w
  · have mirrored : w - 1 - j < w := by omega
    have index : w - 1 - (w - 1 - j) = j := by omega
    simp [hj, mirrored, index]
  · simp [hj]

theorem toNat_rev_rev {w : Nat} (v : Word) (hw : w ≤ 32) : (rev w (rev w v)).toNat = v.toNat % 2 ^ w := by
  refine Nat.eq_of_testBit_eq fun j => ?_
  rw [Nat.testBit_mod_two_pow, BitVec.testBit_toNat, BitVec.testBit_toNat, getLsbD_rev_rev v hw]

/-- Reflection is its own inverse below 2^w. -/
theorem rev_rev {w : Nat} {v : Word} (hw : w ≤ 32) (hv : v.toNat < 2 ^ w) : rev w (rev w v) = v :=
  BitVec.eq_of_toNat_eq ((toNat_rev_rev v hw).trans (Nat.mod_eq_of_lt hv))

theorem rev_rev_word (v : Word) : rev 32 (rev 32 v) = v := rev_rev le_rfl v.isLt

theorem rev_zero {w : Nat} (hw : w ≤ 32) : rev w 0 = 0 := (rev_eq_iff hw).2 fun j => by simp

/-- All ones below 2^w are a palindrome. -/
theorem rev_ones {w : Nat} (hw : w ≤ 32) : rev w (BitVec.ofNat 32 (2 ^ w - 1)) = BitVec.ofNat 32 (2 ^ w - 1) := by
  have one : ∀ j, j < w → (BitVec.ofNat 32 (2 ^ w - 1)).getLsbD j = true := fun j hj => by
    have inWord : j < 32 := by omega
    simp [BitVec.getLsbD_ofNat, Nat.testBit_two_pow_sub_one, hj, inWord]
  refine rev_eq_self_of_palindrome hw ?_ fun j hj => (one j hj).trans (one _ (by omega)).symm
  have hpos : 0 < 2 ^ w := Nat.two_pow_pos w
  exact (Nat.mod_le _ _).trans_lt (by omega)

theorem ofNat_two_pow (i : Nat) : BitVec.ofNat 32 (2 ^ i) = BitVec.twoPow 32 i :=
  BitVec.eq_of_toNat_eq (by rw [BitVec.toNat_ofNat, BitVec.toNat_twoPow])

theorem rev_two_pow {i : Nat} (hi : i < 32) : rev 32 (BitVec.ofNat 32 (2 ^ i)) = BitVec.ofNat 32 (2 ^ (31 - i)) := by
  rw [ofNat_two_pow, ofNat_two_pow]
  refine (rev_eq_iff le_rfl).2 fun j => ?_
  simp only [BitVec.getLsbD_twoPow]
  by_cases hj : j < 32
  · have mirrored : 31 - i = j ↔ i = 32 - 1 - j := by omega
    have hi' : 31 - i < 32 := by omega
    simp only [mirrored, hi, hi', hj, decide_true, Bool.true_and]
  · have outside : 31 - i ≠ j := by omega
    simp [hj, outside]

/-- Settles O6: each law is read off the bits of `rev`. -/
theorem reflectionLaws : Obligations.ReflectionLaws :=
  ⟨fun _ x y hw => ⟨toNat_rev_rev x hw, rev_rev hw, rev_xor hw x y, rev_zero hw, rev_ones hw⟩, fun _ => rev_two_pow⟩

end Sys2Proof.Machine

/-! ## The laws of the bitwise engines (41_bitwise_engines.md R78 to R84) -/

namespace Sys2Proof.Machine

open Sys2Proof.Claims

theorem crcBwLsb_eq_crcBwMsb (m : List Byte) : crcBwLsb m = crcBwMsb (rbytes m) := rev_crcBwLsbRaw m

/-- Settles O13: the reflected register of the LSB engine follows the MSB engine's over the reflected bytes. -/
theorem lsbEngineIsMsbEngineOnReflectedBytes : Obligations.LsbEngineIsMsbEngineOnReflectedBytes := fun m =>
  ⟨crcBwLsb_eq_crcBwMsb m, by rw [← rev_crcBwLsbRaw, rev_rev_word]⟩

theorem bwLsbByte_xor (x y : Word) (a b : Byte) : bwLsbByte (x ^^^ y) (a ^^^ b) = bwLsbByte x a ^^^ bwLsbByte y b := by
  have fed : x ^^^ y ^^^ (a.setWidth 32 ^^^ b.setWidth 32) = (x ^^^ a.setWidth 32) ^^^ (y ^^^ b.setWidth 32) := by
    ac_rfl
  rw [bwLsbByte, BitVec.setWidth_xor, fed, rounds_lsbRound_xor, bwLsbByte, bwLsbByte]

theorem crcBwLsbRaw_xorBytes {m n : List Byte} (hlen : m.length = n.length) :
    crcBwLsbRaw (xorBytes m n) = crcBwLsbRaw m ^^^ crcBwLsbRaw n :=
  foldl_xorBytes bwLsbByte_xor hlen 0 0

/-- Settles O14: every byte step is linear in the register and the byte, and so is the final reflection. -/
theorem crcIsLinear : Obligations.CrcIsLinear := by
  intro a b hlen
  refine ⟨crcBwMsb_xorBytes hlen, crcBwLsbRaw_xorBytes hlen, ?_⟩
  rw [crcBwLsb, crcBwLsbRaw_xorBytes hlen, rev_xor le_rfl, crcBwLsb, crcBwLsb]

/-- Settles O15: the byte 0 keeps the register value 0; the message `[0x01]` shows that a zero byte at the end is seen. -/
theorem leadingZeroBytesChangeNothing : Obligations.LeadingZeroBytesChangeNothing := by
  refine ⟨fun k m => ⟨crcBwMsb_zeros_append k m, crcBwLsbRaw_zeros_append k m⟩,
    fun k => ⟨crcBwMsb_zeros k, ?_⟩, ⟨[0x01], by decide +kernel⟩, ⟨[0x01], by decide +kernel⟩⟩
  rw [crcBwLsb, crcBwLsbRaw_zeros, rev_zero le_rfl]

theorem crcBwMsb_singleton (b : Byte) : crcBwMsb [b] = tabRead tblMsb b :=
  (bwMsbByte_zero b).trans (tabRead_tblMsb b).symm

theorem crcBwLsbRaw_singleton (b : Byte) : crcBwLsbRaw [b] = tabRead tblLsb b :=
  (bwLsbByte_zero b).trans (tabRead_tblLsb b).symm

/-- Settles O16: one byte from the register value 0 is the byte's generated entry, which the ROM listing holds. -/
theorem singleByteCrcIsTheTableEntry : Obligations.SingleByteCrcIsTheTableEntry :=
  ⟨fun b => ⟨crcBwMsb_singleton b, crcBwLsbRaw_singleton b⟩, by decide, by decide⟩

/-- Settles O17: each of the four commands delivers its engine's value over the message. -/
theorem crcDependsOnTheMessageAlone : Obligations.CrcDependsOnTheMessageAlone := by
  intro i hi m
  simp only [List.mem_cons, List.not_mem_nil, or_false] at hi
  obtain rfl | rfl | rfl | rfl := hi
  · exact ⟨_, fun s => exec_bwmsb_readable⟩
  · exact ⟨_, fun s => exec_tbmsb_readable⟩
  · exact ⟨_, fun s => exec_bwlsb_readable⟩
  · exact ⟨_, fun s => exec_tblsb_readable⟩

theorem getLsbD_revByte (b : Byte) {j : Nat} (hj : j < 8) : (revByte b).getLsbD j = b.getLsbD (7 - j) := by
  have inByte : 7 - j < 8 := by omega
  have inWord : 7 - j < 32 := by omega
  rw [revByte, BitVec.getLsbD_setWidth, getLsbD_rev _ (by decide), BitVec.getLsbD_setWidth]
  simp [hj, inWord]

theorem revByte_revByte (b : Byte) : revByte (revByte b) = b := by
  refine BitVec.eq_of_getLsbD_eq fun j hj => ?_
  have index : 7 - (7 - j) = j := by omega
  rw [getLsbD_revByte _ hj, getLsbD_revByte _ (by omega), index]

theorem rbytes_rbytes (m : List Byte) : rbytes (rbytes m) = m := by
  rw [rbytes, rbytes, List.map_map, funext (f := revByte ∘ revByte) revByte_revByte, List.map_id']

theorem rbytes_eq_self {m : List Byte} (h : ∀ b ∈ m, revByte b = b) : rbytes m = m :=
  (List.map_congr_left h).trans (List.map_id' m)

/-- A fold over natural numbers as a loop that works out each value before it takes the next element, so that evaluating
it over a long message nests no deeper than one byte. -/
def strictFold (upd : Nat → Nat → Nat) : List Nat → Nat → Nat
  | [], acc => acc
  | b :: m, acc =>
    match upd acc b with
    | 0 => strictFold upd m 0
    | n + 1 => strictFold upd m (n + 1)

theorem foldl_eq_strictFold (upd : Nat → Nat → Nat) (m : List Nat) (acc : Nat) :
    m.foldl upd acc = strictFold upd m acc := by
  induction m generalizing acc with
  | nil => rfl
  | cons b m ih =>
    rw [List.foldl_cons, ih, strictFold]
    split
    next h => rw [h]
    next n h => rw [h]

/-- R84's value over `bytes(0..124)`, by the pseudocode of R72. -/
theorem crcBwMsb_bytesFrom0_125 : crcBwMsb (bytesFrom0 125) = 0x47E1651A := by
  refine BitVec.eq_of_toNat_eq ?_
  rw [toNat_crcBwMsb, crcBwMsbPseudo, foldl_eq_strictFold]
  decide +kernel

/-- R84's value over `bytes(0..124)`, by the pseudocode of R74 and R75. -/
theorem crcBwLsb_bytesFrom0_125 : crcBwLsb (bytesFrom0 125) = 0x0631B73A := by
  refine BitVec.eq_of_toNat_eq ?_
  rw [crcBwLsb, toNat_rev _ le_rfl, toNat_crcBwLsbRaw, crcBwLsbRawPseudo, foldl_eq_strictFold]
  decide +kernel

theorem revByte_eq_self_iff (b : Byte) : revByte b = b ↔ ∀ j, j < 8 → b.getLsbD (7 - j) = b.getLsbD j := by
  constructor
  · intro h j hj
    rw [← getLsbD_revByte b hj, h]
  · intro h
    exact BitVec.eq_of_getLsbD_eq fun j hj => (getLsbD_revByte b hj).trans (h j hj)

/-- A byte that reads the same both ways is its low four bits with their mirror image above them. -/
theorem eq_mirror_of_revByte_eq_self {b : Byte} (h : revByte b = b) :
    b = (b.setWidth 4).reverse ++ b.setWidth 4 := by
  have mirror := (revByte_eq_self_iff b).1 h
  refine BitVec.eq_of_getLsbD_eq fun j hj => ?_
  rw [BitVec.getLsbD_append]
  by_cases low : j < 4
  · simp [low]
  · have inHigh : j - 4 < 4 := by omega
    have index : 4 - 1 - (j - 4) = 7 - j := by omega
    have inLow : 7 - j < 4 := by omega
    rw [← mirror j hj, BitVec.getLsbD_reverse, BitVec.getMsbD_eq_getLsbD, index]
    simp [low, inHigh, inLow]

/-- The listed bytes are the mirrored halves, one for each value of four bits. -/
theorem revByte_eq_self_iff_mem_palindromes (b : Byte) : revByte b = b ↔ b ∈ palindromes := by
  have mirrored : ∀ x : BitVec 4, x.reverse ++ x ∈ palindromes := by decide +kernel
  have listed : palindromes.all (fun c => revByte c == c) = true := by decide +kernel
  constructor
  · intro h
    rw [eq_mirror_of_revByte_eq_self h]
    exact mirrored _
  · intro h
    exact beq_iff_eq.1 (List.all_eq_true.1 listed b h)

/-- Settles O18: the LSB engine is the MSB engine over the reflected bytes, which are the message itself when every byte
is a palindrome; the 256 bytes and the single messages are computed. -/
theorem msbAndLsbAgreeExactlyWhen : Obligations.MsbAndLsbAgreeExactlyWhen := by
  refine ⟨fun m => eq_comm.trans (rev_crcBwLsbRaw_eq_crcBwMsb_iff m), fun m h => ?_,
    revByte_eq_self_iff_mem_palindromes, fun m => ?_, ?_, ?_, ?_, crcBwMsb_bytesFrom0_125, crcBwLsb_bytesFrom0_125⟩
  · rw [crcBwLsb_eq_crcBwMsb, rbytes_eq_self h]
  · rw [crcBwLsb_eq_crcBwMsb, rbytes_rbytes]
  all_goals decide

end Sys2Proof.Machine

/-! ## The laws of the tables and their engines (42_table_engines.md R90, R95, R100) -/

namespace Sys2Proof.Machine

open Sys2Proof.Claims

theorem tbMsbByte_tblMsb : tbMsbByte (tabRead tblMsb) = bwMsbByte := by
  rw [funext tabRead_tblMsb]
  exact funext₂ fun acc b => (bwMsbByte_eq_tbMsbByte acc b).symm

theorem tbLsbByte_tblLsb : tbLsbByte (tabRead tblLsb) = bwLsbByte := by
  rw [funext tabRead_tblLsb]
  exact funext₂ fun acc b => (bwLsbByte_eq_tbLsbByte acc b).symm

/-- Settles O24: the two commands are one CRC command, since their byte updates are the same function. -/
theorem tableMsbEqualsBitwiseMsb : Obligations.TableMsbEqualsBitwiseMsb :=
  ⟨crcTbMsb_tblMsb, fun i => (crcBwMsb_singleton i).symm,
    fun s => by rw [exec, exec, execTbmsb, execBwmsb, tbMsbByte_tblMsb]⟩

/-- Settles O25: as for the MSB commands. -/
theorem tableLsbEqualsBitwiseLsb : Obligations.TableLsbEqualsBitwiseLsb :=
  ⟨crcTbLsbRaw_tblLsb, fun s => by rw [exec, exec, execTblsb, execBwlsb, tbLsbByte_tblLsb]⟩

theorem tabRead_tblMsb_xor (a b : Byte) : tabRead tblMsb (a ^^^ b) = tabRead tblMsb a ^^^ tabRead tblMsb b := by
  simp only [← crcBwMsb_singleton]
  exact crcBwMsb_xorBytes (m := [a]) (n := [b]) rfl

theorem tabRead_tblLsb_xor (a b : Byte) : tabRead tblLsb (a ^^^ b) = tabRead tblLsb a ^^^ tabRead tblLsb b := by
  simp only [← crcBwLsbRaw_singleton]
  exact crcBwLsbRaw_xorBytes (m := [a]) (n := [b]) rfl

/-- The tables mirror each other as the engines do. -/
theorem tabRead_tblLsb_eq_rev (i : Byte) : tabRead tblLsb i = rev 32 (tabRead tblMsb (revByte i)) := by
  rw [← crcBwLsbRaw_singleton, ← crcBwMsb_singleton, (lsbEngineIsMsbEngineOnReflectedBytes [i]).2]
  rfl

/-- Settles O28: the entries are the CRCs of single bytes, so the engines' laws are the tables'; the sums over all entries
are computed from the listing. -/
theorem builtInTableLaws : Obligations.BuiltInTableLaws := by
  refine ⟨rfl, rfl, rfl, ?_, tabRead_tblMsb_xor, tabRead_tblLsb_xor, tabRead_tblLsb_eq_rev, ?_, ?_, ?_, ?_⟩
  all_goals decide +kernel

end Sys2Proof.Machine

/-! ## The MSB engine as a remainder of polynomials over GF(2) (40_reflector_and_constants.md R70, 41_bitwise_engines.md R77) -/

namespace Sys2Proof.Machine

open Sys2Proof.Claims Polynomial

/-- A bit as an element of GF(2). -/
def bitValue (b : Bool) : ZMod 2 := if b then 1 else 0

@[simp] theorem bitValue_false : bitValue false = 0 := rfl

theorem bitValue_xor (a b : Bool) : bitValue (a ^^ b) = bitValue a + bitValue b := by
  cases a <;> cases b <;> decide

theorem bitsPoly_concat (l : List Bool) (b : Bool) : bitsPoly (l ++ [b]) = bitsPoly l * X + C (bitValue b) := by
  cases b <;> simp [bitsPoly, bitValue]

/-- The last bit of a list is the coefficient of x^0. -/
theorem coeff_bitsPoly (l : List Bool) (i : Nat) : (bitsPoly l).coeff i = bitValue (l.reverse.getD i false) := by
  induction l using List.reverseRecOn generalizing i with
  | nil => simp [bitsPoly]
  | append_singleton l b ih =>
    rw [bitsPoly_concat, List.reverse_concat]
    cases i with
    | zero => simp
    | succ i => simp [ih]

/-- The polynomial of a register value. -/
noncomputable def wordPoly (w : Word) : (ZMod 2)[X] := bitsPoly (wordBits w)

/-- Bit `i` of a word is the coefficient of x^i. -/
theorem coeff_wordPoly (w : Word) (i : Nat) : (wordPoly w).coeff i = bitValue (w.getLsbD i) := by
  rw [wordPoly, coeff_bitsPoly, wordBits, List.getD_eq_getElem?_getD]
  by_cases hi : i < 32
  · have index : 31 - (32 - 1 - i) = i := by omega
    simp [hi, index]
  · have outside : 32 ≤ i := by omega
    simp [hi, BitVec.getLsbD_of_ge w i outside]

theorem degree_wordPoly_lt (w : Word) : (wordPoly w).degree < 32 := by
  refine (degree_lt_iff_coeff_zero _ 32).2 fun i hi => ?_
  rw [coeff_wordPoly, BitVec.getLsbD_of_ge w i hi, bitValue_false]

theorem wordPoly_xor (x y : Word) : wordPoly (x ^^^ y) = wordPoly x + wordPoly y := by
  ext i
  rw [coeff_add, coeff_wordPoly, coeff_wordPoly, coeff_wordPoly, BitVec.getLsbD_xor, bitValue_xor]

/-- Multiplying by x shifts the register, and the bit that leaves it is the coefficient of x^32. -/
theorem wordPoly_mul_X (w : Word) : wordPoly w * X = wordPoly (w <<< 1) + C (bitValue (w.getLsbD 31)) * X ^ 32 := by
  ext i
  rw [coeff_add, coeff_C_mul_X_pow, coeff_wordPoly, BitVec.getLsbD_shiftLeft]
  cases i with
  | zero => simp
  | succ i =>
    rw [coeff_mul_X, coeff_wordPoly]
    obtain hi | rfl | hi := lt_trichotomy i 31
    · have inWord : i + 1 < 32 := by omega
      have notTop : i ≠ 31 := by omega
      simp [inWord, notTop]
    · simp
    · have outside : ¬i + 1 < 32 := by omega
      have notTop : i ≠ 31 := by omega
      simp [outside, notTop, BitVec.getLsbD_of_ge w i (by omega)]

/-- `POLY_MSB` is the normal form of the generator: all but the term x^32 (R66, R70). -/
theorem genPoly_eq : genPoly = X ^ 32 + wordPoly polyMsb := by
  have bits : wordBits polyMsb = [false, true, true, true, false, true, false, false, false, false, false, true, true,
      false, true, true, true, false, false, false, true, true, false, false, true, true, false, true, false, true, true,
      true] := by decide
  rw [wordPoly, bits, genPoly]
  simp only [bitsPoly, List.foldl_cons, List.foldl_nil, if_true, Bool.false_eq_true, if_false]
  ring

theorem degree_genPoly : genPoly.degree = 32 := by
  rw [genPoly_eq]
  rw [degree_add_eq_left_of_degree_lt, degree_X_pow]
  · rfl
  · exact (degree_wordPoly_lt polyMsb).trans_eq (degree_X_pow 32).symm

theorem genPoly_monic : genPoly.Monic := by
  rw [genPoly_eq]
  exact monic_X_pow_add (degree_wordPoly_lt polyMsb)

/-- One bit step multiplies the register by x, adds the message bit at x^32 and subtracts the generator when the two bits at
x^32 differ (R72). -/
theorem wordPoly_msbBit (acc : Word) (bit : Bool) : wordPoly (msbBit acc bit) =
    wordPoly acc * X + C (bitValue bit) * X ^ 32 - C (bitValue (acc.getLsbD 31 ^^ bit)) * genPoly := by
  have shifted : wordPoly (msbBit acc bit) =
      wordPoly (acc <<< 1) + C (bitValue (acc.getLsbD 31 ^^ bit)) * wordPoly polyMsb := by
    rw [msbBit]
    cases acc.getLsbD 31 ^^ bit
    · simp
    · simp [wordPoly_xor, bitValue]
  rw [shifted, wordPoly_mul_X, genPoly_eq, bitValue_xor, C_add]
  have two : (2 : (ZMod 2)[X]) = 0 := CharTwo.two_eq_zero
  linear_combination (C (bitValue (acc.getLsbD 31)) + C (bitValue bit)) * wordPoly polyMsb * two

/-- The register after the bits `l` is congruent to their polynomial times x^32. -/
theorem genPoly_dvd_sub (l : List Bool) : genPoly ∣ bitsPoly l * X ^ 32 - wordPoly (l.foldl msbBit 0) := by
  induction l using List.reverseRecOn with
  | nil =>
    have zero : wordPoly 0 = 0 := by ext i; simp [coeff_wordPoly]
    rw [List.foldl_nil, zero, bitsPoly, List.foldl_nil, zero_mul, sub_zero]
    exact dvd_zero genPoly
  | append_singleton l bit ih =>
    have next : bitsPoly (l ++ [bit]) * X ^ 32 - wordPoly ((l ++ [bit]).foldl msbBit 0) =
        (bitsPoly l * X ^ 32 - wordPoly (l.foldl msbBit 0)) * X +
          C (bitValue ((l.foldl msbBit 0).getLsbD 31 ^^ bit)) * genPoly := by
      rw [List.foldl_concat, wordPoly_msbBit, bitsPoly_concat]
      ring
    rw [next]
    exact dvd_add (ih.mul_right X) (dvd_mul_left genPoly _)

/-- The engine takes the message bit by bit (R40, R72). -/
theorem crcBwMsb_eq_foldl_msgBits (m : List Byte) : crcBwMsb m = (msgBits m).foldl msbBit 0 := by
  rw [crcBwMsb, msgBits, List.foldl_flatMap]
  rfl

/-- Settles O12: the register's polynomial has a degree below 32 and is congruent to M(x) x^32, so it is the remainder. -/
theorem msbCrcIsPolynomialRemainder : Obligations.MsbCrcIsPolynomialRemainder := by
  intro m
  obtain ⟨q, hq⟩ := genPoly_dvd_sub (msgBits m)
  rw [← crcBwMsb_eq_foldl_msgBits] at hq
  have sum : wordPoly (crcBwMsb m) + genPoly * q = bitsPoly (msgBits m) * X ^ 32 := by
    rw [← hq, add_sub_cancel]
  have small : (wordPoly (crcBwMsb m)).degree < genPoly.degree := by
    rw [degree_genPoly]
    exact degree_wordPoly_lt _
  exact (div_modByMonic_unique q _ genPoly_monic ⟨sum, small⟩).2.symm

end Sys2Proof.Machine
